-- ==== Sys2Proof/Word.lean ====
section
/-! DEFINITION. The value types of ECBC: bytes, 32-bit words, host-window offsets, 16-byte blocks (spec R6, R7, R44). -/

namespace Sys2Proof

/-- A byte is 8 bits (R7). -/
abbrev Byte := BitVec 8

/-- A host-visible register's content, a command word and an identifier word are 32 bits (R11, R71, R90). -/
abbrev Word := BitVec 32

/-- An offset inside the host window of 0x40000 bytes (R41, R44: `0 <= off < 0x40000`), so 18 bits. -/
abbrev Offset := BitVec 18

/-- A 16-byte sequence: a key, an input block or an output block (R6 `BLOCK`, `KEYLEN`; R19). -/
abbrev Block := Vector Byte 16

/-- `zeros(16)` of R7. -/
def Block.zeros : Block := Vector.replicate 16 0

end Sys2Proof
end

