-- ==== Sys2Proof/Config.lean ====
section
/-! DEFINITION. The parameters of an ECBC instance (spec R6, R25): fixed for the machine, written by no step.

Every operation of the machine takes a `Config`, so that the spec's fixtures (95_test_vectors.md) can be run.
The machine itself runs under `Config.hw`, whose fields are opaque constants without a body: nothing in Lean can
evaluate them, so a statement about the machine holds for every value the spec allows. -/

namespace Sys2Proof

/-- The OPEN parameters of R6, and the draws made at reset (R27, D31). -/
structure Config where
  /-- `DEVID`: the four 32-bit words of the identifier register block (R6, R90). -/
  devid : Fin 4 → Word
  /-- `E`: what the primitive computes from (key, block) when it succeeds (R6, R108, D21). -/
  e : Block → Block → Block
  /-- `ZERO_STOP`: whether the block build stops at the first zero byte of a window (R6, R106, D16). -/
  zeroStop : Bool
  /-- `CAP / 16 - 1`: every legal `CAP` (R6: a multiple of 16, 16 to 65536), and no other (V10), is one value of this field. -/
  capBlocks : Fin 4096
  /-- `BASE / 0x40000`: every legal `BASE` (R6: a multiple of 0x40000) is one value of this field. -/
  basePage : Nat
  /-- The byte `CT[a]` holds after the `n`-th reset and before the host writes it: a draw made at reset, then stable (R27, V5). -/
  ctPowerOn : Nat → Nat → Byte
  /-- The byte `OB[a]` holds after the `n`-th reset and before `RESP` writes it (R27, V7). -/
  obPowerOn : Nat → Nat → Byte

/-- `CAP`, the capacity in bytes of `CT` and of `OB` (R6, D8). -/
def Config.cap (c : Config) : Nat := 16 * c.capBlocks.val + 16

/-- `BASE`, the address of the host window (R6, R41, D2). -/
def Config.base (c : Config) : Nat := 0x40000 * c.basePage

/-- The bus address of a window offset: all offsets are relative to `BASE` (R41). -/
def Config.busAddress (c : Config) (off : Offset) : Nat := c.base + off.toNat

/-- The window offset a bus address selects; none where the address is not in ECBC's window (R41). -/
def Config.offsetOf (c : Config) (addr : Nat) : Option Offset :=
  if c.base ≤ addr ∧ addr < c.base + 0x40000 then some (BitVec.ofNat 18 (addr - c.base)) else none

/-- The device's identifier words, open (R6, U11). -/
opaque Config.hwDevid : Fin 4 → Word
/-- The primitive's function, open (R6, U6). -/
opaque Config.hwE : Block → Block → Block
/-- `ZERO_STOP`, open (R6, U1). -/
opaque Config.hwZeroStop : Bool
/-- `CAP / 16 - 1`, open (R6, U10). -/
opaque Config.hwCapBlocks : Fin 4096
/-- `BASE / 0x40000`, open (R6). -/
opaque Config.hwBasePage : Nat
/-- The draws that fill `CT` at each reset, open (R27, V5). -/
opaque Config.hwCtPowerOn : Nat → Nat → Byte
/-- The draws that fill `OB` at each reset, open (R27, V7). -/
opaque Config.hwObPowerOn : Nat → Nat → Byte

/-- The instance the machine is: any instance the spec allows. -/
def Config.hw : Config where
  devid := Config.hwDevid
  e := Config.hwE
  zeroStop := Config.hwZeroStop
  capBlocks := Config.hwCapBlocks
  basePage := Config.hwBasePage
  ctPowerOn := Config.hwCtPowerOn
  obPowerOn := Config.hwObPowerOn

end Sys2Proof
end

