-- ==== Sys2Proof/Syntax.lean ====
section
/-! DEFINITION. The instructions of ECBC: one constructor per row of spec/opcode_table.json (R73, R78).

An ECBC instruction carries no operand (R72): a command takes its operands from `INDEX`, `LEN` and `CT`, a
micro-operation from the sequencer's registers. -/

namespace Sys2Proof

/-- The seven rows of the opcode table: two host commands (R73) and the sequencer's micro-operations (R78), the two
arms of `RESP` being two rows. -/
inductive Instr where
  /-- `GETID`, `CMD32` word 0x00000001 (R73, R94). -/
  | getid
  /-- `ENCRYPT`, `CMD32` word 0x00000002 (R73, R100). -/
  | encrypt
  /-- `CTXCHK`, `SEQ4` word 0b0001 (R78, R103). -/
  | ctxchk
  /-- `DERIVE` with `ALLOC`, `SEQ4` word 0b0010 (R78, R95, R104). -/
  | derive
  /-- `BUILD`, `SEQ4` word 0b0011 (R78, R107). -/
  | build
  /-- `RESP.OK`, `SEQ4` word 0b1011 with a response whose `ok` bit is 1 (R78, R121). -/
  | respOk
  /-- `RESP.FAIL`, `SEQ4` word 0b1011 with a response whose `ok` bit is 0 (R78, R122). -/
  | respFail
deriving DecidableEq, Repr

/-- What selects an instruction (R70): a command word the host writes to `CMD`, or the sequencer's word together with
the `ok` bit of the primitive's response that arrives with it (`none`: no response arrives). -/
inductive CodeWord where
  /-- Format `CMD32` (R71). -/
  | cmd32 (w : Word)
  /-- Format `SEQ4`, `{PH, STATE[2:0]}` (R78), and the `ok` bit of an arriving `PRSP129` (R80). -/
  | seq4 (w : BitVec 4) (response : Option Bool)
deriving DecidableEq, Repr

/-- The name the opcode table gives the instruction. -/
def Instr.mnemonic : Instr → String
  | .getid => "GETID"
  | .encrypt => "ENCRYPT"
  | .ctxchk => "CTXCHK"
  | .derive => "DERIVE"
  | .build => "BUILD"
  | .respOk => "RESP.OK"
  | .respFail => "RESP.FAIL"

end Sys2Proof
end

