-- ==== Sys2Proof/WellFormed.lean ====
section
/-! DEFINITION. Well-formedness: which code words are an instruction's (R71, R73, R74, R78).

An instruction term has no fields (R72, R76), so every term of `Instr` is well formed; the checks are on the words. -/

namespace Sys2Proof

/-- Every instruction term is well formed: it has no immediate, no register number and no mode (R72, R76). -/
def Instr.wellFormed (_ : Instr) : Bool := true

/-- `RSVZ`, bits [31:8] of a command word, must be zero (R71). -/
def CodeWord.rsvzZero (w : Word) : Bool := w.extractLsb' 8 24 == 0

/-- `OPC`, bits [7:0] of a command word, is one of the two legal opcodes (R73). -/
def CodeWord.opcLegal (w : Word) : Bool := w.extractLsb' 0 8 == 1 || w.extractLsb' 0 8 == 2

/-- The sequencer word of a micro-operation that no external agent must answer (R78). -/
def CodeWord.seqRuns (w : BitVec 4) : Bool := w == 0b0001 || w == 0b0010 || w == 0b0011

/-- The sequencer word with a request outstanding, the only one a response may arrive at (R78, R120). -/
def CodeWord.seqWaits (w : BitVec 4) : Bool := w == 0b1011

/-- The code words that select an instruction: a legal command word, or a sequencer word of R78 with a response
exactly where one is owed. -/
def CodeWord.wellFormed : CodeWord → Bool
  | .cmd32 w => CodeWord.rsvzZero w && CodeWord.opcLegal w
  | .seq4 w none => CodeWord.seqRuns w
  | .seq4 w (some _) => CodeWord.seqWaits w

end Sys2Proof
end

