-- ==== Sys2Proof/Decode.lean ====
section
/-! DEFINITION. Decoding of command words (R71, R73, R74) and of the sequencer word (R78), the encoder, and the opcode
table's numbering of an instruction's bits. -/

namespace Sys2Proof

/-- Why a code word selects no instruction. -/
inductive DecodeError where
  /-- A command word with a bit of `RSVZ` set (R71: "a word with any of these bits set is illegal"). -/
  | reservedBits
  /-- An opcode other than 0x01 and 0x02 (R74). -/
  | illegalOpcode
  /-- The sequencer has no micro-operation in this state (R78: `IDLE`, `DONE`, `ABORTED`, or a word never reached). -/
  | noMicroOperation
  /-- A request is outstanding and no response has arrived: `RESP` is not enabled (R78, R157). -/
  | awaitingResponse
  /-- A response with no request outstanding (R120: "A response is never delivered when `PH = 0`"). -/
  | responseNotOwed
deriving DecidableEq, Repr

/-- Decode of a word written to `CMD` (R71), total on all 2^32 words. -/
def decodeCmd (v : Word) : Except DecodeError Instr :=
  if v.extractLsb' 8 24 ≠ 0 then .error .reservedBits
  else if v.extractLsb' 0 8 = 0x01 then .ok .getid
  else if v.extractLsb' 0 8 = 0x02 then .ok .encrypt
  else .error .illegalOpcode

/-- The sequencer's dispatch (R78), total on all 16 words with or without a response. -/
def decodeSeq (w : BitVec 4) (response : Option Bool) : Except DecodeError Instr :=
  match response with
  | none =>
    if w = 0b0001 then .ok .ctxchk
    else if w = 0b0010 then .ok .derive
    else if w = 0b0011 then .ok .build
    else if w = 0b1011 then .error .awaitingResponse
    else .error .noMicroOperation
  | some ok =>
    if w = 0b1011 then (if ok then .ok .respOk else .ok .respFail)
    else .error .responseNotOwed

/-- Decode of any code word. -/
def decode : CodeWord → Except DecodeError Instr
  | .cmd32 w => decodeCmd w
  | .seq4 w response => decodeSeq w response

/-- The word that selects an instruction (R73, R78; the `ok` bit of R80 tells the arms of `RESP` apart). -/
def encode : Instr → CodeWord
  | .getid => .cmd32 0x00000001
  | .encrypt => .cmd32 0x00000002
  | .ctxchk => .seq4 0b0001 none
  | .derive => .seq4 0b0010 none
  | .build => .seq4 0b0011 none
  | .respOk => .seq4 0b1011 (some true)
  | .respFail => .seq4 0b1011 (some false)

/-- The code word that the opcode table's bits stand for. A `CMD32` row has 32 bits. A `SEQ4` row has its four bits in
one byte; there bit 4 stands for the response's `ok` bit where the sequencer waits for one (log entry 5). -/
def codeWordOfTable (nbits w : Nat) : Option CodeWord :=
  if nbits = 32 then
    if w < 2 ^ 32 then some (.cmd32 (BitVec.ofNat 32 w)) else none
  else if nbits = 8 then
    if w = 0x0B then some (.seq4 0b1011 (some false))
    else if w = 0x1B then some (.seq4 0b1011 (some true))
    else if w < 16 then some (.seq4 (BitVec.ofNat 4 w) none)
    else none
  else none

/-- The instruction the decoder reads from an instruction's bits as the opcode table numbers them. -/
def decodeTableWord (nbits w : Nat) : Option Instr :=
  match codeWordOfTable nbits w with
  | none => none
  | some cw =>
    match decode cw with
    | .ok i => some i
    | .error _ => none

end Sys2Proof
end

