-- ==== Sys2Proof/Machine/State.lean ====
section
/-! DEFINITION. The state of ECBC (R11, R24), what its agents do to it (R8), and the state after reset (R27). -/

namespace Sys2Proof.Machine

open Sys2Proof

/-- The sequencer's register `STATE` (R12). Its type has the six values of R12; codes 6 and 7 are never produced and
have no behaviour (V1), so they are not represented. -/
inductive SeqState where
  | idle
  | ctxcheck
  | derive
  | encrypting
  | done
  | aborted
deriving DecidableEq, Repr

/-- The three causes of an abort (R140). -/
inductive AbortCause where
  | platformUnavailable
  | primitiveFailure
  | lengthRefused
deriving DecidableEq, Repr

/-- A transaction of the host port (R44): the four kinds, at any offset of the window. -/
inductive HostTxn where
  | read32 (off : Offset)
  | write32 (off : Offset) (v : Word)
  | read8 (off : Offset)
  | write8 (off : Offset) (v : Byte)
deriving DecidableEq, Repr

/-- What a host read returns (R44). -/
inductive HostReply where
  | word (v : Word)
  | byte (v : Byte)
deriving DecidableEq, Repr

/-- Which agent takes the next step, with the draws it brings (R8, R160). -/
inductive Move where
  /-- `HOST` performs one transaction (R44). -/
  | host (t : HostTxn)
  /-- `CTRL` takes its enabled micro-operation, if it has one (R78). -/
  | ctrl
  /-- `PRIM` delivers its response, `ok(E(KEY, IBLK))` or `fail` (R120). Which of the two is a draw (R108). -/
  | prim (ok : Bool)
  /-- `CTX` drives the input `CTX_READY` (R102). -/
  | ctx (level : Bool)
  /-- The reset input (R160). -/
  | reset
deriving DecidableEq, Repr

/-- An event of the port history (R24). -/
inductive PortEvent where
  /-- `IdRead(k)` (R90). -/
  | idRead (k : Fin 4)
  /-- `CtxSample` and the bit it returned (R102). -/
  | ctxSample (b : Bool)
  /-- `PrimRequest(key, block)` (R108). -/
  | primRequest (key block : Block)
  /-- `PrimResponse` `ok(ct)` (R120). -/
  | primOk (ct : Block)
  /-- `PrimResponse` `fail` (R120). -/
  | primFail
deriving DecidableEq, Repr

/-- The two byte buffers (R20, R21). -/
inductive Buffer where
  | ct
  | ob
deriving DecidableEq, Repr

/-- The bytes of a buffer that were written since the last reset, as (address, byte) pairs with strictly rising
addresses. -/
abbrev Memory := List Host.Cell

/-- The state of ECBC: the table of R11, and below it the model's own fields (INVENTORY.md, State). -/
structure State where
  /-- `STATE` (R12). -/
  state : SeqState
  /-- `PH`, a primitive request is outstanding (R12). -/
  ph : Bool
  /-- `ERR`: `none` is code 0, `NONE` (R14, R140). -/
  err : Option AbortCause
  /-- `CMDERR` (R14, R146). -/
  cmderr : Bool
  /-- `INDEX` (R15). -/
  index : Word
  /-- `LEN` (R16). -/
  len : Word
  /-- `IDWORD` (R18). -/
  idword : Word
  /-- `OUTLEN` (R17). -/
  outlen : Word
  /-- `KEY` (R19). -/
  key : Block
  /-- `IBLK` (R19). -/
  iblk : Block
  /-- `OBLK` (R19). -/
  oblk : Block
  /-- `I` (R22). -/
  i : BitVec 16
  /-- `NBLK` (R22). -/
  nblk : BitVec 16
  /-- `CT` (R20). -/
  ct : Memory
  /-- `OB` (R21). -/
  ob : Memory
  /-- The level of the input `CTX_READY` (R102); the environment's, driven by `Move.ctx`. -/
  ctxReady : Bool
  /-- The model's own: how many resets there were, which picks the draws of R27. -/
  resets : Nat
  /-- The model's own: the moves the environment has in store, the next one first. -/
  schedule : List Move
  /-- The model's own: the history of port events, oldest first (R24). -/
  history : List PortEvent
  /-- The model's own: what the host's reads returned, oldest first (R44). -/
  replies : List HostReply
deriving DecidableEq, Repr

/-- The faults of the model. The spec gives ECBC none: every host transaction and every micro-operation completes
(R44, R56). -/
inductive Fault where
  /-- Raised by `BUILD` and by `RESP.OK` where they would access a buffer at or above `CAP`, an address that does not
  exist (R20, R21). By R54 no run does, so only states that no run reaches fault. Safe: the machine stops. -/
  | beyondBuffer (b : Buffer)
deriving DecidableEq, Repr

/-- The refusals of the model. -/
inductive Refusal where
  /-- Raised by `exec` for an instruction without a meaning; no arm does. Safe: the machine stops. -/
  | notModelled (mnemonic : String)
  /-- Raised by `RESP.OK` and `RESP.FAIL`, and by a step in which `PRIM` delivers a response, where no response is owed
  (R120: "A response is never delivered when `PH = 0`"; R161 and V9: a stale response is refused). Safe: the machine
  stops. -/
  | responseNotOwed
deriving DecidableEq, Repr

/-- The state after reset (R27). The registers the spec leaves without a value (`KEY`, `IBLK`, `OBLK`, `I`, `NBLK`) hold
zero: DESIGN CHOICE, log entry 1. No byte of `CT` or `OB` is listed: each reads as the draw of R27. The input `CTX_READY`
is low and the environment has no move in store: DESIGN CHOICE, log entries 2 and 3. -/
def State.reset : State where
  state := .idle
  ph := false
  err := none
  cmderr := false
  index := 0
  len := 0
  idword := 0
  outlen := 0
  key := Block.zeros
  iblk := Block.zeros
  oblk := Block.zeros
  i := 0
  nblk := 0
  ct := []
  ob := []
  ctxReady := false
  resets := 0
  schedule := []
  history := []
  replies := []

end Sys2Proof.Machine
end

