-- ==== Sys2Proof/Machine/Flags.lean ====
section
/-! DEFINITION. The status flags and the words composed from the sequencer's state: `BUSY`, `STATUS`, `SEQ` (R12, R14,
R23, R78). -/

namespace Sys2Proof.Machine

open Sys2Proof

/-- The code of `STATE` (R12). -/
def SeqState.code : SeqState → BitVec 3
  | .idle => 0
  | .ctxcheck => 1
  | .derive => 2
  | .encrypting => 3
  | .done => 4
  | .aborted => 5

/-- The state a code of R12 names; none for the reserved codes 6 and 7 (V1). -/
def SeqState.ofCode (w : BitVec 3) : Option SeqState :=
  if w = 0 then some .idle
  else if w = 1 then some .ctxcheck
  else if w = 2 then some .derive
  else if w = 3 then some .encrypting
  else if w = 4 then some .done
  else if w = 5 then some .aborted
  else none

/-- The "Busy" column of R12: `CTXCHECK`, `DERIVE` and `ENCRYPTING`. -/
def SeqState.busy : SeqState → Bool
  | .idle => false
  | .ctxcheck => true
  | .derive => true
  | .encrypting => true
  | .done => false
  | .aborted => false

/-- `BUSY`, not stored: a function of `STATE` (R14). -/
def State.busy (s : State) : Bool := s.state.busy

/-- The code of `ERR` (R140). -/
def errCode : Option AbortCause → BitVec 2
  | none => 0
  | some .platformUnavailable => 1
  | some .primitiveFailure => 2
  | some .lengthRefused => 3

/-- `SEQ = {PH, STATE[2:0]}` (R78). -/
def State.seq (s : State) : BitVec 4 := BitVec.ofBool s.ph ++ s.state.code

/-- `STATUS` as composed at the moment of the read: `{0[23:0], PH, CMDERR, ERR[1:0], BUSY, STATE[2:0]}` (R14, R45). -/
def State.status (s : State) : Word :=
  0#24 ++ BitVec.ofBool s.ph ++ BitVec.ofBool s.cmderr ++ errCode s.err ++ BitVec.ofBool s.busy ++ s.state.code

end Sys2Proof.Machine
end

