-- ==== Sys2Proof/Machine/Operands.lean ====
section
/-! DEFINITION. Operand forms: the index rule, the bytes of the device identifier, the block count, the window and the
padded block (R48, R72, R91, R92, R104, R105, R106). -/

namespace Sys2Proof.Machine

open Sys2Proof

/-- The operand of `GETID`: `INDEX` read as a two's-complement integer (R15, R72). -/
def State.signedIndex (s : State) : Int := s.index.toInt

/-- The operand of `ENCRYPT`: `LEN` read as an unsigned byte count (R16, R72). -/
def State.length (s : State) : Nat := s.len.toNat

/-- The index rule (R91). It does not saturate (C3). -/
def idx (n : Int) : Fin 4 :=
  if h : 0 ≤ n ∧ n ≤ 3 then ⟨n.toNat, by omega⟩ else 0

/-- Byte `j` of a word, byte 0 the least significant (R48). -/
def wordByte (w : Word) (j : Nat) : Byte := w.extractLsb' (8 * j) 8

/-- `DID[n]`, the device identifier as bytes: `DID[4*k + j] = DEVID[k][8*j + 7 : 8*j]` (R48, R92). -/
def did (c : Config) (n : Fin 16) : Byte := wordByte (c.devid ⟨n.val / 4, by omega⟩) (n.val % 4)

/-- `ceil16(L) = (L + 15) div 16` (R7), the source's `blockCount` (R104). -/
def ceil16 (L : Nat) : Nat := (L + 15) / 16

/-- The number of cleartext bytes in window `i` (R105). -/
def avail (L i : Nat) : Nat := min 16 (L - 16 * i)

/-- `MemRead(space, addr, n)` (R7) of a space given by what each address reads as. -/
def memRead (read : Nat → Byte) (addr n : Nat) : List Byte := (List.range n).map fun k => read (addr + k)

/-- `win(c, L, i)`, the bytes of the window that exist (R105); `c a` is byte `a` of the cleartext. -/
def win (c : Nat → Byte) (L i : Nat) : List Byte := memRead c (16 * i) (avail L i)

/-- `ncopy` (R106): how many bytes of a window are copied. With `ZERO_STOP` the index of the first zero byte, or the
window's length if it has none. -/
def ncopy (zeroStop : Bool) (window : List Byte) : Nat :=
  if zeroStop then window.findIdx (fun b => b == 0) else window.length

/-- The input block of a window: the copied bytes, then zero bytes (R106). -/
def padWindow (zeroStop : Bool) (window : List Byte) : Block :=
  Vector.ofFn fun j : Fin 16 => if j.val < ncopy zeroStop window then window.getD j.val 0 else 0

/-- `padblock(c, L, i)`, the padding scheme (R106). -/
def padblock (zeroStop : Bool) (c : Nat → Byte) (L i : Nat) : Block := padWindow zeroStop (win c L i)

end Sys2Proof.Machine
end

