-- ==== Sys2Proof/Machine/Ports.lean ====
section
/-! DEFINITION. The formats of the primitive port: the byte lanes of a 16-byte value, `PREQ256` and `PRSP129` (R49, R79,
R80). The machine carries the values as byte sequences (D15); these functions say how they lie on the port. -/

namespace Sys2Proof.Machine

open Sys2Proof

/-- A 16-byte sequence on a 128-bit port vector: byte `j` is bits `[8*j + 7 : 8*j]` (R49). -/
def packBlock (b : Block) : BitVec 128 :=
  BitVec.ofFnLE fun k : Fin 128 => (b[k.val / 8]'(by omega)).getLsbD (k.val % 8)

/-- The 16-byte sequence a port vector carries (R49). -/
def unpackBlock (v : BitVec 128) : Block := Vector.ofFn fun j : Fin 16 => v.extractLsb' (8 * j.val) 8

/-- `PREQ256 = {pt[127:0], key[127:0]}` (R79). -/
def packRequest (key block : Block) : BitVec 256 := packBlock block ++ packBlock key

/-- The key and the plaintext block of a request word (R79). -/
def unpackRequest (w : BitVec 256) : Block × Block :=
  (unpackBlock (w.extractLsb' 0 128), unpackBlock (w.extractLsb' 128 128))

/-- `PRSP129 = {ok, ct[127:0]}` (R80); for a failure the lanes are whatever the primitive drives (V8). -/
def packResponse (ok : Bool) (lanes : BitVec 128) : BitVec 129 := BitVec.ofBool ok ++ lanes

/-- What a response word says: the ciphertext block, or failure (`none`), whose lanes are ignored (R80). -/
def unpackResponse (w : BitVec 129) : Option Block :=
  if w.getLsbD 128 then some (unpackBlock (w.extractLsb' 0 128)) else none

/-- The outstanding primitive request as it lies on the port: while `PH = 1` the primitive holds `(KEY, IBLK)` (R24). -/
def State.outstanding (s : State) : Option (BitVec 256) :=
  if s.ph then some (packRequest s.key s.iblk) else none

end Sys2Proof.Machine
end

