-- ==== Sys2Proof/Machine/Ops.lean ====
section
/-! DEFINITION. The named operations over buffers, ports and registers that the meanings share: memory reads and writes
(R7, R20, R21), the port primitives (R90, R102, R108), the abort entry (R144) and its counterpart at acceptance (R100,
R145), the illegal-command rule (R146), and the reset event (R160). -/

namespace Sys2Proof.Machine

open Sys2Proof

/-! ### Buffers -/

/-- What an unlisted address of a buffer holds: no byte written since reset. The reads below give it the draw that the
spec says the address holds (R27); log entry 4. -/
def Memory.unlisted : Option Byte := none

/-- The byte last written at an address, if any. -/
def Memory.get : Memory → Nat → Option Byte
  | [], _ => Memory.unlisted
  | (a, v) :: m, x => if a = x then some v else Memory.get m x

/-- Write a byte, keeping the addresses strictly rising. -/
def Memory.set : Memory → Nat → Byte → Memory
  | [], x, w => [(x, w)]
  | (a, v) :: m, x, w =>
    if a < x then (a, v) :: Memory.set m x w
    else if a = x then (x, w) :: m
    else (x, w) :: (a, v) :: m

/-- `MemWrite(space, addr, n, v)` with `n` the length of the sequence (R7). -/
def Memory.write : Memory → Nat → List Byte → Memory
  | m, _, [] => m
  | m, a, b :: bs => Memory.write (m.set a b) (a + 1) bs

/-- The canonical form: addresses strictly rising, and no entry equal to what an unlisted address holds. -/
abbrev Memory.wf (m : Memory) : Prop :=
  m.Pairwise (fun e f => e.1 < f.1) ∧ ∀ e ∈ m, some e.2 ≠ Memory.unlisted

/-- Whether the bytes at `addr` to `addr + n - 1` exist in a buffer of `CAP` bytes (R20, R21). -/
def inBuffer (c : Config) (addr n : Nat) : Bool := n == 0 || decide (addr + n ≤ c.cap)

/-- `CT[a]`: the byte written since the last reset, else the draw made at that reset (R20, R27, V5). -/
def State.ctByte (c : Config) (s : State) (a : Nat) : Byte := (s.ct.get a).getD (c.ctPowerOn s.resets a)

/-- `OB[a]`, the physical byte, whether or not the gate of R43 lets the host see it (R21, R27, V7). -/
def State.obByte (c : Config) (s : State) (a : Nat) : Byte := (s.ob.get a).getD (c.obPowerOn s.resets a)

/-- `CT[a] <- v` (R42). -/
def State.writeCt (s : State) (a : Nat) (v : Byte) : State := { s with ct := s.ct.set a v }

/-- `MemWrite(OB, addr, 16, b)` (R54, R121). -/
def State.writeOb (s : State) (addr : Nat) (b : Block) : State := { s with ob := s.ob.write addr b.toList }

/-! ### Ports -/

/-- Append an event to the port history (R24). -/
def State.record (s : State) (e : PortEvent) : State := { s with history := s.history ++ [e] }

/-- Append what a host read returned to the record of replies (R44). -/
def State.reply (s : State) (r : HostReply) : State := { s with replies := s.replies ++ [r] }

/-- `IdRead(k)` (R90): the word `DEVID[k]`; total, pure and constant. -/
def idRead (c : Config) (k : Fin 4) : Word := c.devid k

/-- `deriveKey()` (R93): the bytes of word 0, then of word 1, low byte first, and the same eight again. -/
def deriveKey (c : Config) : Block :=
  let w0 := idRead c 0
  let w1 := idRead c 1
  let lo := [wordByte w0 0, wordByte w0 1, wordByte w0 2, wordByte w0 3,
             wordByte w1 0, wordByte w1 1, wordByte w1 2, wordByte w1 3]
  Vector.ofFn fun j : Fin 16 => (lo ++ lo).getD j.val 0

/-! ### Abort, acceptance, illegal command, reset -/

/-- Abort entry, `raise Abort(code)` (R144). Nothing is saved, because nothing is resumed. -/
def State.abort (cause : AbortCause) (s : State) : State :=
  { s with outlen := 0, err := some cause, ph := false, state := .aborted }

/-- The four writes at the acceptance of `ENCRYPT` (R100), before the length check. There is no return from an abort
other than this and reset (R145). -/
def State.clearForEncrypt (s : State) : State :=
  { s with cmderr := false, err := none, outlen := 0, ph := false }

/-- `raise CmdError`, the illegal-command rule (R146). -/
def State.cmdError (s : State) : State := { s with cmderr := true }

/-- The reset event (R160, R161): every piece of state at its value after reset, and fresh draws in the buffers. The
context input and the identifier are not touched (R162), nor are the model's own records of the environment. -/
def State.resetEvent (s : State) : State :=
  { State.reset with
    ctxReady := s.ctxReady
    resets := s.resets + 1
    schedule := s.schedule
    history := s.history
    replies := s.replies }

end Sys2Proof.Machine
end

