-- ==== Sys2Proof/Machine/Accumulator.lean ====
section
/-! DEFINITION. The accumulator: the two arms of `RESP` (R120, R121, R122). -/

namespace Sys2Proof.Machine

open Sys2Proof

/-- Whether a response is owed: `STATE = ENCRYPTING` and a request outstanding (R78, R120). -/
def State.owed (s : State) : Bool := s.state == .encrypting && s.ph

/-- `RESP`, success arm (R121), with `ct = E(KEY, IBLK)` (R120). The old `I` is the address, the new one the test. A
response that is not owed is refused (V9). A write that leaves `OB` faults; no run has one (R54; log entry 8). -/
def respOk (c : Config) (s : State) : Host.Outcome State Fault Refusal :=
  if s.owed then
    let addr := 16 * s.i.toNat
    if inBuffer c addr 16 then
      let ct := c.e s.key s.iblk
      .next { (s.record (.primOk ct)).writeOb addr ct with
        oblk := ct
        outlen := s.outlen + 16
        ph := false
        i := s.i + 1
        state := if s.i + 1 = s.nblk then .done else .encrypting }
    else .fault (.beyondBuffer .ob)
  else .refused .responseNotOwed

/-- `RESP.OK` on the machine. -/
def execRespOk (s : State) : Host.Outcome State Fault Refusal := respOk Config.hw s

/-- `RESP`, failure arm (R122): the abort entry; the data lanes of the response are ignored (R80). A response that is
not owed is refused (V9). -/
def respFail (s : State) : Host.Outcome State Fault Refusal :=
  if s.owed then .next ((s.record .primFail).abort .primitiveFailure)
  else .refused .responseNotOwed

/-- `RESP.FAIL` on the machine. -/
def execRespFail (s : State) : Host.Outcome State Fault Refusal := respFail s

end Sys2Proof.Machine
end

