-- ==== Sys2Proof/Machine/BlockScheduler.lean ====
section
/-! DEFINITION. The padded-block scheduler: `ENCRYPT` (R100, R101), `CTXCHK` (R103), `BUILD` (R107). -/

namespace Sys2Proof.Machine

open Sys2Proof

/-- `ENCRYPT`, the acceptance (R100) with the length refusal (R101), in the step of the `CMD` write. While busy the
write is dropped (R47). -/
def encrypt (c : Config) (s : State) : Host.Outcome State Fault Refusal :=
  if s.busy then .next s
  else if s.length > c.cap then .next (s.clearForEncrypt.abort .lengthRefused)
  else .next { s.clearForEncrypt with state := .ctxcheck }

/-- `ENCRYPT` on the machine. -/
def execEncrypt (s : State) : Host.Outcome State Fault Refusal := encrypt Config.hw s

/-- `CTXCHK` (R103): one sample of `CTX_READY` (R102). Outside `STATE = CTXCHECK, PH = 0` it is not enabled and does not
happen (R78; log entry 7). -/
def ctxchk (s : State) : Host.Outcome State Fault Refusal :=
  if s.state = .ctxcheck ∧ s.ph = false then
    let b := s.ctxReady
    let s' := s.record (.ctxSample b)
    .next (if b then { s' with state := .derive } else s'.abort .platformUnavailable)
  else .next s

/-- `CTXCHK` on the machine. -/
def execCtxchk (s : State) : Host.Outcome State Fault Refusal := ctxchk s

/-- `BUILD` (R107): the padded block of window `I` (R106), the zeroed output block, and the request. Outside
`STATE = ENCRYPTING, PH = 0` it is not enabled and does not happen (R78; log entry 7). A window that leaves `CT` faults;
no run has one (R54; log entry 8). -/
def build (c : Config) (s : State) : Host.Outcome State Fault Refusal :=
  if s.state = .encrypting ∧ s.ph = false then
    let i := s.i.toNat
    if inBuffer c (16 * i) (avail s.length i) then
      let b := padWindow c.zeroStop (memRead (s.ctByte c) (16 * i) (avail s.length i))
      .next { s.record (.primRequest s.key b) with iblk := b, oblk := Block.zeros, ph := true }
    else .fault (.beyondBuffer .ct)
  else .next s

/-- `BUILD` on the machine. -/
def execBuild (s : State) : Host.Outcome State Fault Refusal := build Config.hw s

end Sys2Proof.Machine
end

