-- ==== Sys2Proof/Machine/KeyDeriver.lean ====
section
/-! DEFINITION. The key deriver: `GETID` (R94) and `DERIVE` with `ALLOC` (R95, R104). -/

namespace Sys2Proof.Machine

open Sys2Proof

/-- `GETID` (R94), in the step of the `CMD` write. While busy the write is dropped (R47). -/
def getid (c : Config) (s : State) : Host.Outcome State Fault Refusal :=
  if s.busy then .next s
  else
    let k := idx s.signedIndex
    .next { s.record (.idRead k) with idword := idRead c k, cmderr := false }

/-- `GETID` on the machine. -/
def execGetid (s : State) : Host.Outcome State Fault Refusal := getid Config.hw s

/-- `ALLOC`, the second half of `DERIVE` (R104), with the loop test of R95 for zero blocks. `NBLK` is a 16-bit register
(R22); log entry 6. -/
def State.alloc (s : State) : State :=
  let n := BitVec.ofNat 16 (ceil16 s.length)
  { s with nblk := n, outlen := 0, i := 0, state := if n = 0 then .done else .encrypting }

/-- `DERIVE` (R95). Outside `STATE = DERIVE, PH = 0` it is not enabled and does not happen (R78; log entry 7). -/
def derive (c : Config) (s : State) : Host.Outcome State Fault Refusal :=
  if s.state = .derive ∧ s.ph = false then
    .next { (s.record (.idRead 0)).record (.idRead 1) with key := deriveKey c }.alloc
  else .next s

/-- `DERIVE` on the machine. -/
def execDerive (s : State) : Host.Outcome State Fault Refusal := derive Config.hw s

end Sys2Proof.Machine
end

