-- ==== Sys2Proof/Machine/Dispatch.lean ====
section
/-! DEFINITION. The meaning of each instruction: one arm per constructor of `Instr`. -/

namespace Sys2Proof.Machine
open Sys2Proof

def exec (i : Instr) (s : State) : Host.Outcome State Fault Refusal :=
  match i with
  | .getid => Sys2Proof.Machine.execGetid s
  | .encrypt => Sys2Proof.Machine.execEncrypt s
  | .ctxchk => Sys2Proof.Machine.execCtxchk s
  | .derive => Sys2Proof.Machine.execDerive s
  | .build => Sys2Proof.Machine.execBuild s
  | .respOk => Sys2Proof.Machine.execRespOk s
  | .respFail => Sys2Proof.Machine.execRespFail s

end Sys2Proof.Machine
end

