-- ==== Sys2Proof/Machine/HostPort.lean ====
section
/-! DEFINITION. The host port: the window map (R41), the four kinds of transaction (R44 to R47), the two apertures (R42,
R43), and the offer of a command word (R46, R71). -/

namespace Sys2Proof.Machine

open Sys2Proof

/-- The six registers of the host window (R41). -/
inductive HostReg where
  | cmd
  | status
  | index
  | len
  | idword
  | outlen
deriving DecidableEq, Repr

/-- What stands at an offset of the window (R41). -/
inductive Region where
  /-- A register, reached by word transactions. -/
  | reg (r : HostReg)
  /-- Byte `a` of the `CT` aperture, reached by byte transactions. -/
  | ctByte (a : Nat)
  /-- Byte `a` of the gated `OB` aperture, reached by byte transactions. -/
  | obByte (a : Nat)
  /-- Nothing: reads as zero, writes ignored. An offset that is not a multiple of 4 inside a register is one (R51). -/
  | reserved
deriving DecidableEq, Repr

/-- The host window's map (R41). -/
def regionOf (c : Config) (off : Offset) : Region :=
  let n := off.toNat
  if n = 0x00000 then .reg .cmd
  else if n = 0x00004 then .reg .status
  else if n = 0x00008 then .reg .index
  else if n = 0x0000C then .reg .len
  else if n = 0x00010 then .reg .idword
  else if n = 0x00014 then .reg .outlen
  else if n < 0x10000 then .reserved
  else if n < 0x20000 then (if n - 0x10000 < c.cap then .ctByte (n - 0x10000) else .reserved)
  else if n < 0x30000 then (if n - 0x20000 < c.cap then .obByte (n - 0x20000) else .reserved)
  else .reserved

/-- The value of a register read (R45). -/
def State.regRead (s : State) : HostReg → Word
  | .cmd => 0
  | .status => s.status
  | .index => s.index
  | .len => s.len
  | .idword => s.idword
  | .outlen => s.outlen

/-- `HostRead32(off)` (R45): a word transaction reaches only the registers (R44). -/
def hostRead32 (c : Config) (s : State) (off : Offset) : Word :=
  match regionOf c off with
  | .reg r => s.regRead r
  | .ctByte _ => 0
  | .obByte _ => 0
  | .reserved => 0

/-- `HostRead8(off)`: `CT[a]` at any time (R42), `OB[a]` through the read gate (R43), zero elsewhere (R44). -/
def hostRead8 (c : Config) (s : State) (off : Offset) : Byte :=
  match regionOf c off with
  | .reg _ => 0
  | .ctByte a => s.ctByte c a
  | .obByte a => if s.state = .done ∧ a < s.outlen.toNat then s.obByte c a else 0
  | .reserved => 0

/-- A command word offered while not busy (R46, R71): the command executes in the same step, and an illegal word
performs the illegal-command rule (R74, R146). -/
def offerCommand (s : State) (v : Word) : Host.Outcome State Fault Refusal :=
  match decodeCmd v with
  | .ok i => exec i s
  | .error _ => .next s.cmdError

/-- `HostWrite32(off, v)`: dropped while busy (R47); else R46. -/
def hostWrite32 (s : State) (off : Offset) (v : Word) : Host.Outcome State Fault Refusal :=
  if s.busy then .next s
  else
    match regionOf Config.hw off with
    | .reg .cmd => offerCommand s v
    | .reg .status => .next s
    | .reg .index => .next { s with index := v }
    | .reg .len => .next { s with len := v }
    | .reg .idword => .next s
    | .reg .outlen => .next s
    | .ctByte _ => .next s
    | .obByte _ => .next s
    | .reserved => .next s

/-- `HostWrite8(off, v)`: dropped while busy (R47); else a byte of `CT` (R42), and nothing elsewhere (R43, R44). -/
def hostWrite8 (c : Config) (s : State) (off : Offset) (v : Byte) : State :=
  if s.busy then s
  else
    match regionOf c off with
    | .reg _ => s
    | .ctByte a => s.writeCt a v
    | .obByte _ => s
    | .reserved => s

/-- One host transaction (R44). A read leaves the state of ECBC unchanged (R53); the model records what it returned. -/
def hostStep (t : HostTxn) (s : State) : Host.Outcome State Fault Refusal :=
  match t with
  | .read32 off => .next (s.reply (.word (hostRead32 Config.hw s off)))
  | .write32 off v => hostWrite32 s off v
  | .read8 off => .next (s.reply (.byte (hostRead8 Config.hw s off)))
  | .write8 off v => .next (hostWrite8 Config.hw s off v)

end Sys2Proof.Machine
end

