-- ==== Sys2Proof/Machine/Agents.lean ====
section
/-! DEFINITION. What each agent's move does (R8), and which move comes next. -/

namespace Sys2Proof.Machine

open Sys2Proof

/-- `CTRL`'s step (R78): the micro-operation that `SEQ` selects; where none is enabled, nothing happens. -/
def ctrlStep (s : State) : Host.Outcome State Fault Refusal :=
  match decodeSeq s.seq none with
  | .ok i => exec i s
  | .error _ => .next s

/-- `PRIM`'s step (R120): the response and ECBC's reaction to it; a response that is not owed is refused (V9). -/
def primStep (ok : Bool) (s : State) : Host.Outcome State Fault Refusal :=
  match decodeSeq s.seq (some ok) with
  | .ok i => exec i s
  | .error _ => .refused .responseNotOwed

/-- The step of the agent whose move it is (R8). -/
def perform (m : Move) (s : State) : Host.Outcome State Fault Refusal :=
  match m with
  | .host t => hostStep t s
  | .ctrl => ctrlStep s
  | .prim ok => primStep ok s
  | .ctx level => .next { s with ctxReady := level }
  | .reset => .next s.resetEvent

/-- The next move: the first in store; with none in store, `CTRL` moves, so that an enabled micro-operation is taken
(the weak fairness of R173; log entry 3). -/
def State.nextMove (s : State) : Move :=
  match s.schedule with
  | [] => .ctrl
  | m :: _ => m

/-- The state with the next move taken out of store. -/
def State.pop (s : State) : State := { s with schedule := s.schedule.tail }

/-- Put a command word where the next step takes it: a write to `CMD` in store, and a sequencer that is not busy, since a
busy one drops the write (R47). -/
def State.fetchCommand (s : State) (v : Word) : State :=
  { s with
    state := if s.busy then .idle else s.state
    ph := if s.busy then false else s.ph
    schedule := .host (.write32 0x00000 v) :: s.schedule }

/-- Put the sequencer in the state its word names, with the move in store that takes the micro-operation: the primitive's
response where one comes, else `CTRL`'s. -/
def State.fetchSeq (s : State) (w : BitVec 4) (response : Option Bool) : State :=
  { s with
    state := (SeqState.ofCode (w.extractLsb' 0 3)).getD s.state
    ph := w.getLsbD 3
    schedule := (match response with
      | none => Move.ctrl
      | some ok => Move.prim ok) :: s.schedule }

/-- Put a code word where the next step takes it. -/
def State.fetch (s : State) : CodeWord → State
  | .cmd32 v => s.fetchCommand v
  | .seq4 w response => s.fetchSeq w response

end Sys2Proof.Machine
end

