-- ==== Sys2Proof/Machine/Step.lean ====
section
/-! DEFINITION. One step of the machine (R8), and the placing of an instruction where the next step takes it. -/

namespace Sys2Proof.Machine

open Sys2Proof

/-- One atomic step (R8): the next move is taken out of store and performed. -/
def step (s : State) : Host.Outcome State Fault Refusal := perform s.nextMove s.pop

/-- The state in which the very next step runs the instruction that the opcode table's bits `w` stand for; the state
itself where they stand for no code word. -/
def State.withFetchWord (s : State) (nbits w : Nat) : State :=
  match codeWordOfTable nbits w with
  | some cw => s.fetch cw
  | none => s

end Sys2Proof.Machine
end

