-- ==== Sys2Proof/Machine/Assembler.lean ====
section
/-! DEFINITION. The host-side notation of the spec (R82), and the two pseudo-instructions of R83 that are fixed lists of
lines. `POLL` and `ENCRYPTCALL`, whose lines depend on what was read, are in HostProgram.lean. -/

namespace Sys2Proof.Machine

open Sys2Proof

/-- `off(reg)` (R82). -/
def HostReg.offset : HostReg → Offset
  | .cmd => 0x00
  | .status => 0x04
  | .index => 0x08
  | .len => 0x0C
  | .idword => 0x10
  | .outlen => 0x14

/-- One line of the notation (R82). -/
inductive AsmLine where
  /-- `WR32 <reg>, <value>` -/
  | wr32 (r : HostReg) (v : Word)
  /-- `RD32 <reg>` -/
  | rd32 (r : HostReg)
  /-- `WR8 CT+<a>, <byte>` -/
  | wr8ct (a : Nat) (b : Byte)
  /-- `RD8 CT+<a>` -/
  | rd8ct (a : Nat)
  /-- `RD8 OB+<a>` -/
  | rd8ob (a : Nat)
deriving DecidableEq, Repr

/-- The transaction of a line, its encoding (kind, offset, data) of R82. R82 does not bound `a`. Where `0x10000 + a` or
`0x20000 + a` is 0x40000 or more, R44 has no such transaction, and the offset wraps modulo 2^18: DESIGN CHOICE, log entry
17. -/
def AsmLine.txn : AsmLine → HostTxn
  | .wr32 r v => .write32 r.offset v
  | .rd32 r => .read32 r.offset
  | .wr8ct a b => .write8 (BitVec.ofNat 18 (0x10000 + a)) b
  | .rd8ct a => .read8 (BitVec.ofNat 18 (0x10000 + a))
  | .rd8ob a => .read8 (BitVec.ofNat 18 (0x20000 + a))

/-- The host's moves for a list of lines. -/
def asmMoves (lines : List AsmLine) : List Move := lines.map fun l => .host l.txn

/-- `GETDEVICEID <index>` (R83). An integer that no 32-bit word stands for wraps: log entry 17. -/
def getDeviceIdLines (index : Int) : List AsmLine :=
  [.wr32 .index (BitVec.ofInt 32 index), .wr32 .cmd 0x00000001, .rd32 .idword]

/-- `LOAD <b0> <b1> ...` (R83). With 2^17 bytes or more the offsets leave the window, and with 2^32 the count leaves its
word; both wrap: log entry 17. -/
def loadLines (bytes : List Byte) : List AsmLine :=
  bytes.mapIdx (fun a b => .wr8ct a b) ++ [.wr32 .len (BitVec.ofNat 32 bytes.length)]

end Sys2Proof.Machine
end

