-- ==== Sys2Proof/Machine/HostProgram.lean ====
section
/-! DEFINITION. The host running a program in the notation of the spec: `POLL`, which repeats until it reads `BUSY = 0`,
and `ENCRYPTCALL`, which reads as many bytes as the `OUTLEN` it has read (R83). What the host does next depends on what the
machine answered, so a program is a list of items, and a turn of the host takes the next line of the first. -/

namespace Sys2Proof.Machine

open Sys2Proof

/-- What the host still has to do. -/
inductive HostItem where
  /-- One line of R82. -/
  | line (l : AsmLine)
  /-- `POLL` (R83). -/
  | poll
  /-- The end of `ENCRYPTCALL`: `RD32 OUTLEN`, then `RD8 OB+0` to `RD8 OB+(OUTLEN-1)` for the value read (R83). -/
  | readResult
deriving DecidableEq, Repr

/-- A program of fixed lines. -/
def lineProgram (lines : List AsmLine) : List HostItem := lines.map .line

/-- `ENCRYPTCALL` (R83). -/
def encryptCallProgram : List HostItem := [.line (.wr32 .cmd 0x00000002), .poll, .readResult]

/-- Whether a value read from `STATUS` ends a `POLL`: bit 3, `BUSY`, is clear (R83). -/
def pollEnds (status : Word) : Bool := !status.getLsbD 3

/-- The line that an item does next. -/
def HostItem.nextLine : HostItem → AsmLine
  | .line l => l
  | .poll => .rd32 .status
  | .readResult => .rd32 .outlen

/-- What is left of an item after its next line, given the last value the host has read. A `POLL` repeats until `BUSY` is
clear. Both items that look at the value have just read a word, so the arms without one are never taken; there the item
stays as it is. An `OUTLEN` of 2^17 or more, which no run reaches, gives lines beyond the window: log entry 17. -/
def HostItem.after : HostItem → Option HostReply → List HostItem
  | .line _, _ => []
  | .poll, some (.word v) => if pollEnds v then [] else [.poll]
  | .poll, some (.byte _) => [.poll]
  | .poll, none => [.poll]
  | .readResult, some (.word v) => lineProgram ((List.range v.toNat).map .rd8ob)
  | .readResult, some (.byte _) => [.readResult]
  | .readResult, none => [.readResult]

/-- The last value the host has read. -/
def State.lastReply (s : State) : Option HostReply := s.replies.getLast?

/-- The result of a `POLL` that has just ended: "the last value read is the result" (R83). -/
def State.pollResult (s : State) : Option Word :=
  match s.lastReply with
  | some (.word v) => some v
  | some (.byte _) => none
  | none => none

/-- The state with moves put before those in store. -/
def State.enqueue (s : State) (moves : List Move) : State := { s with schedule := moves ++ s.schedule }

/-- One turn of the host: the moves `gap` of the other agents, which R57 item 2 puts between two of its transactions, then
its next transaction, all as steps of the machine. A program that is over takes no turn. -/
def hostTurn (gap : List Move) (program : List HostItem) (s : State) :
    Host.Outcome (List HostItem × State) Fault Refusal :=
  match program with
  | [] => .next ([], s)
  | item :: rest =>
    match Host.Core.run core (gap.length + 1) (s.enqueue (gap ++ [.host item.nextLine.txn])) with
    | .next t => .next (item.after t.lastReply ++ rest, t)
    | .fault f => .fault f
    | .refused r => .refused r

/-- One turn for each gap. What is left of the program, and the state. -/
def hostRun : List (List Move) → List HostItem → State → Host.Outcome (List HostItem × State) Fault Refusal
  | [], program, s => .next (program, s)
  | gap :: gaps, program, s =>
    match hostTurn gap program s with
    | .next (program', t) => hostRun gaps program' t
    | .fault f => .fault f
    | .refused r => .refused r

end Sys2Proof.Machine
end

