-- ==== Sys2Proof/Machine/Operation.lean ====
section
/-! DEFINITION. The whole operation as one function (R127), its results (R125), the moves and port events of its run
(R78, R111), and how many steps it has left (R127, R173). -/

namespace Sys2Proof.Machine

open Sys2Proof

/-- The tagged result of an operation (R125). -/
inductive TaggedResult where
  | done (out : List Byte)
  | aborted (cause : AbortCause)
deriving DecidableEq, Repr

/-- The flattened result (R125, R127): both error kinds collapse to the empty sequence (R149). -/
def TaggedResult.flatten : TaggedResult → List Byte
  | .done out => out
  | .aborted _ => []

/-- The tagged result the host takes in a terminal state (R125); none elsewhere. -/
def State.taggedResult (c : Config) (s : State) : Option TaggedResult :=
  match s.state with
  | .idle => none
  | .ctxcheck => none
  | .derive => none
  | .encrypting => none
  | .done => some (.done (memRead (s.obByte c) 0 s.outlen.toNat))
  | .aborted => s.err.map .aborted

/-- The flattened result the host takes: the `OUTLEN` bytes read from the `OB` aperture (R125). -/
def State.flattenedResult (c : Config) (s : State) : List Byte :=
  memRead (fun a => hostRead8 c s (BitVec.ofNat 18 (0x20000 + a))) 0 s.outlen.toNat

/-- The loop of `encryptOp` (R127), for `n` blocks from block `i` on, `out` being the output so far. -/
def encryptBlocks (c : Config) (key : Block) (ct : Nat → Byte) (L : Nat) (fails : Nat → Bool) :
    Nat → Nat → List Byte → TaggedResult
  | _, 0, out => .done out
  | i, n + 1, out =>
    if fails i then .aborted .primitiveFailure
    else encryptBlocks c key ct L fails (i + 1) n (out ++ (c.e key (padblock c.zeroStop ct L i)).toList)

/-- `encryptOp(c, L, ctx, fails)` (R127). -/
def encryptOp (c : Config) (ct : Nat → Byte) (L : Nat) (ctx : Bool) (fails : Nat → Bool) : TaggedResult :=
  if L > c.cap then .aborted .lengthRefused
  else if ctx = false then .aborted .platformUnavailable
  else encryptBlocks c (deriveKey c) ct L fails 0 (ceil16 L) []

/-- The moves of `CTRL` and `PRIM` for `n` blocks from block `i` on: `BUILD`, then the response, up to a failing one. -/
def blockMoves (fails : Nat → Bool) : Nat → Nat → List Move
  | _, 0 => []
  | i, n + 1 => .ctrl :: .prim (!fails i) :: (if fails i then [] else blockMoves fails (i + 1) n)

/-- The moves of an accepted operation (R78): the context input at the level `ctx`, `CTXCHK`, `DERIVE`, and the blocks;
none where the length is refused (R101). -/
def operationMoves (c : Config) (L : Nat) (ctx : Bool) (fails : Nat → Bool) : List Move :=
  if L > c.cap then []
  else .ctx ctx :: .ctrl :: (if ctx then .ctrl :: blockMoves fails 0 (ceil16 L) else [])

/-- Whether a move of `operationMoves` is a micro-operation: `CTRL`'s or `PRIM`'s (R78). -/
def Move.isMicro : Move → Bool
  | .ctrl => true
  | .prim _ => true
  | .host _ => false
  | .ctx _ => false
  | .reset => false

/-- Host transactions inserted before each move: `noise k` before the `k`-th. -/
def weave (noise : Nat → List HostTxn) : Nat → List Move → List Move
  | _, [] => []
  | k, m :: ms => (noise k).map .host ++ m :: weave noise (k + 1) ms

/-- A whole `ENCRYPT`: the host's write of the command word, then the operation's moves with host transactions in
between (R57 item 2). -/
def operationSchedule (c : Config) (L : Nat) (ctx : Bool) (fails : Nat → Bool) (noise : Nat → List HostTxn) :
    List Move :=
  .host (.write32 0x00000 0x00000002) :: weave noise 0 (operationMoves c L ctx fails)

/-- The port events of `n` blocks from block `i` on. -/
def blockEvents (c : Config) (key : Block) (ct : Nat → Byte) (L : Nat) (fails : Nat → Bool) :
    Nat → Nat → List PortEvent
  | _, 0 => []
  | i, n + 1 =>
    let b := padblock c.zeroStop ct L i
    .primRequest key b ::
      (if fails i then [.primFail] else .primOk (c.e key b) :: blockEvents c key ct L fails (i + 1) n)

/-- The port events of an operation, in order (R111; R95 for the two reads). -/
def operationEvents (c : Config) (ct : Nat → Byte) (L : Nat) (ctx : Bool) (fails : Nat → Bool) : List PortEvent :=
  if L > c.cap then []
  else if ctx = false then [.ctxSample false]
  else .ctxSample true :: .idRead 0 :: .idRead 1 :: blockEvents c (deriveKey c) ct L fails 0 (ceil16 L)

/-- Whether a port event is a `PrimRequest`. -/
def PortEvent.isRequest : PortEvent → Bool
  | .primRequest _ _ => true
  | .idRead _ => false
  | .ctxSample _ => false
  | .primOk _ => false
  | .primFail => false

/-- Whether a port event is an `IdRead`. -/
def PortEvent.isIdRead : PortEvent → Bool
  | .idRead _ => true
  | .primRequest _ _ => false
  | .ctxSample _ => false
  | .primOk _ => false
  | .primFail => false

/-- Whether a port event is a `CtxSample`. -/
def PortEvent.isSample : PortEvent → Bool
  | .ctxSample _ => true
  | .primRequest _ _ => false
  | .idRead _ => false
  | .primOk _ => false
  | .primFail => false

/-- The first block below `n` whose request fails, if any (R111). -/
def firstFailure (fails : Nat → Bool) (n : Nat) : Option Nat := (List.range n).find? fails

/-- How many micro-operations an operation has left at most: 2 + 2 * `NBLK` at acceptance (R127). -/
def State.remaining (s : State) : Nat :=
  match s.state with
  | .idle => 0
  | .ctxcheck => 2 + 2 * ceil16 s.length
  | .derive => 1 + 2 * ceil16 s.length
  | .encrypting => 2 * (s.nblk.toNat - s.i.toNat) - (if s.ph then 1 else 0)
  | .done => 0
  | .aborted => 0

end Sys2Proof.Machine
end

