-- ==== Sys2Proof/Safety.lean ====
section
/-! DEFINITION. The invariants of the state (R26, R77, R124) and what counts as a safe run. -/

namespace Sys2Proof

open Sys2Proof.Machine

/-- The invariants of R26, with the form of the two buffers. The field names say which item each is. Item 1 holds by the
types: `BUSY` is a function of `STATE`, which has no value 6 or 7. -/
structure Inv (c : Config) (s : State) : Prop where
  /-- Item 2. -/
  abortedIffErr : s.state = .aborted ↔ s.err ≠ none
  /-- Item 3. -/
  phOnlyEncrypting : s.ph = true → s.state = .encrypting
  /-- Item 4, its first part, from acceptance on (R101). -/
  busyFits : s.busy = true → s.len.toNat ≤ c.cap
  /-- Item 4. -/
  blockInHand : s.state = .encrypting →
    s.nblk.toNat = ceil16 s.len.toNat ∧ 1 ≤ s.nblk.toNat ∧ s.i.toNat < s.nblk.toNat ∧ s.outlen.toNat = 16 * s.i.toNat
  /-- Item 5. -/
  doneWhole : s.state = .done → s.outlen.toNat = 16 * s.nblk.toNat ∧ s.err = none
  /-- Item 6. -/
  emptyElsewhere : s.state ≠ .encrypting → s.state ≠ .done → s.outlen = 0
  /-- Item 7. -/
  outlenBlocks : s.outlen.toNat % 16 = 0 ∧ s.outlen.toNat ≤ c.cap
  /-- Item 8, with both halves of the key (R93). -/
  keyDerived : s.state = .encrypting ∨ s.state = .done → s.key = deriveKey c
  /-- R77: `CMDERR` is never set while busy. -/
  cmderrNotBusy : s.busy = true → s.cmderr = false
  /-- `CT` keeps its canonical form and lies below `CAP` (R20). -/
  ctForm : s.ct.wf ∧ ∀ e ∈ s.ct, e.1 < c.cap
  /-- `OB` keeps its canonical form and lies below `CAP` (R21). -/
  obForm : s.ob.wf ∧ ∀ e ∈ s.ob, e.1 < c.cap

/-- Block `j` of the output buffer is the ciphertext of window `j` of the cleartext in `CT` (R123, R124). -/
def BlockDone (c : Config) (s : State) (j : Nat) : Prop :=
  ∀ k : Fin 16, s.obByte c (16 * j + k.val) = (c.e s.key (padblock c.zeroStop (s.ctByte c) s.length j))[k]

/-- The progress invariant of a running operation: the blocks below `I` are done (R124), and a request that is outstanding
carries the padded block `I`, with the output block zeroed (R107). -/
structure Progress (c : Config) (s : State) : Prop where
  blocksDone : s.state = .encrypting → ∀ j < s.i.toNat, BlockDone c s j
  requestBuilt : s.ph = true →
    s.iblk = padblock c.zeroStop (s.ctByte c) s.length s.i.toNat ∧ s.oblk = Block.zeros

/-! ### The vocabulary of frames -/

/-- `INDEX`, `LEN` and every byte of `CT` are as before: what the host owns (R15, R16, R20). -/
def SameOperands (c : Config) (s t : State) : Prop :=
  t.index = s.index ∧ t.len = s.len ∧ ∀ a, t.ctByte c a = s.ctByte c a

/-- Every physical byte of `OB` is as before (R21). -/
def SameOb (c : Config) (s t : State) : Prop := ∀ a, t.obByte c a = s.obByte c a

/-- The internal registers `KEY`, `IBLK`, `OBLK`, `I`, `NBLK` are as before (R19, R22). -/
def SameInternal (s t : State) : Prop :=
  t.key = s.key ∧ t.iblk = s.iblk ∧ t.oblk = s.oblk ∧ t.i = s.i ∧ t.nblk = s.nblk

/-- What stands outside ECBC is as before: the context input, the draws of reset, the moves in store, the host's replies. -/
def SameOutside (s t : State) : Prop :=
  t.ctxReady = s.ctxReady ∧ t.resets = s.resets ∧ t.schedule = s.schedule ∧ t.replies = s.replies

/-- A step is safe when the machine goes on, or when it refuses a response that no request is owed (V9). -/
def SafeOutcome : Host.Outcome State Fault Refusal → Prop
  | .next _ => True
  | .fault _ => False
  | .refused r => r = .responseNotOwed

/-- A run of `k` steps is safe when it ends in no fault. -/
def SafeRun (k : Nat) (s : State) : Prop := ∀ f, Host.Core.run core k s ≠ .fault f

end Sys2Proof
end

