-- ==== Sys2Proof/Certificates/Slice0/Obligations.lean ====
section
/-! DEFINITION. The statements for the provers. Each docstring names the rules of the spec it formalises. -/

open Sys2Proof Sys2Proof.Machine

/-! ### Reset -/

/-- R27: the state after reset, as far as the spec gives it a value. The values of the registers the spec leaves without
one are the model's choice (log entry 1) and are not stated. That the bytes of `CT` are draw number 0 is the model's choice
(log entry 4: the draw is picked by the count of resets, which starts at 0); the spec says only that each is a draw. -/
def Obligations.ResetLeavesIdleAndZero : Prop :=
  State.reset.state = .idle ∧ State.reset.ph = false ∧ State.reset.err = none ∧ State.reset.cmderr = false ∧
  State.reset.busy = false ∧ State.reset.index = 0 ∧ State.reset.len = 0 ∧ State.reset.idword = 0 ∧
  State.reset.outlen = 0 ∧ State.reset.outstanding = none ∧ State.reset.status = 0 ∧
  (∀ a, State.reset.ctByte Config.hw a = Config.hw.ctPowerOn 0 a) ∧
  (∀ a, a < Config.hw.cap → hostRead8 Config.hw State.reset (BitVec.ofNat 18 (0x20000 + a)) = 0)

/-- R160, R161: the reset event, in any state, is one step to the reset values, with fresh draws in both buffers and no
request outstanding, so that a stale response is never taken. -/
def Obligations.ResetEventFromAnyState : Prop :=
  ∀ (s : State) (rest : List Move), s.schedule = .reset :: rest →
    ∃ t, step s = .next t ∧ t.state = .idle ∧ t.ph = false ∧ t.err = none ∧ t.cmderr = false ∧ t.index = 0 ∧ t.len = 0 ∧
      t.idword = 0 ∧ t.outlen = 0 ∧ t.status = 0 ∧ t.outstanding = none ∧ t.ctxReady = s.ctxReady ∧
      (∀ a, t.ctByte Config.hw a = Config.hw.ctPowerOn (s.resets + 1) a) ∧
      (∀ a, t.obByte Config.hw a = Config.hw.obPowerOn (s.resets + 1) a) ∧
      t.schedule = rest ∧
      ∀ (ok : Bool) (rest' : List Move), rest = .prim ok :: rest' → step t = .refused .responseNotOwed

/-- R26 at reset: the invariants hold in the reset state. -/
def Obligations.ResetSatisfiesInvariants : Prop := Inv Config.hw State.reset ∧ Progress Config.hw State.reset

/-! ### Decoding and the step -/

/-- R73, R78: words written out from the spec's encodings select their instructions. -/
def Obligations.WrittenOutWordsDecode : Prop :=
  decode (.cmd32 0b00000000000000000000000000000001#32) = .ok .getid ∧
  decode (.cmd32 0b00000000000000000000000000000010#32) = .ok .encrypt ∧
  decode (.seq4 0b0001#4 none) = .ok .ctxchk ∧ decode (.seq4 0b0010#4 none) = .ok .derive ∧
  decode (.seq4 0b0011#4 none) = .ok .build ∧ decode (.seq4 0b1011#4 (some true)) = .ok .respOk ∧
  decode (.seq4 0b1011#4 (some false)) = .ok .respFail

/-- Decoding an instruction's code word gives the instruction back, and its code word is well formed. -/
def Obligations.DecodeOfEncodeIsIdentity : Prop :=
  ∀ i : Instr, i.wellFormed = true → decode (encode i) = .ok i ∧ (encode i).wellFormed = true

/-- R71, R73, R74: among all code words, a word selects an instruction only if it is that instruction's own word; every
other 32-bit command word is illegal. -/
def Obligations.OnlyEncodedWordsDecode : Prop :=
  (∀ (w : CodeWord) (i : Instr), decode w = .ok i ↔ w = encode i) ∧
  (∀ v : Word, (∃ i, decodeCmd v = .ok i) ↔ v = 0x00000001 ∨ v = 0x00000002) ∧
  (∀ w : CodeWord, w.wellFormed = true ↔ ∃ i, decode w = .ok i)

/-- A step runs the decoded instruction: a command word that the host writes to `CMD` while not busy, `CTRL`'s move (also
with no move in store), and `PRIM`'s response each run `exec` of the decoded instruction, in the state with that move
taken out of store. -/
def Obligations.StepRunsDecodedInstruction : Prop :=
  (∀ (s : State) (v : Word) (rest : List Move) (i : Instr), s.busy = false →
    s.schedule = .host (.write32 0x00000 v) :: rest → decode (.cmd32 v) = .ok i →
    step s = exec i { s with schedule := rest }) ∧
  (∀ (s : State) (rest : List Move) (i : Instr), s.schedule = .ctrl :: rest → decode (.seq4 s.seq none) = .ok i →
    step s = exec i { s with schedule := rest }) ∧
  (∀ (s : State) (i : Instr), s.schedule = [] → decode (.seq4 s.seq none) = .ok i → step s = exec i s) ∧
  (∀ (s : State) (ok : Bool) (rest : List Move) (i : Instr), s.schedule = .prim ok :: rest →
    decode (.seq4 s.seq (some ok)) = .ok i → step s = exec i { s with schedule := rest })

/-- R78, R120: which micro-operation `CTRL` and `PRIM` take in each state of the sequencer, and that none is enabled in
any other. -/
def Obligations.SequencerSelectsByStateAndPhase : Prop :=
  ∀ s : State,
    (s.state = .ctxcheck ∧ s.ph = false → ctrlStep s = exec .ctxchk s) ∧
    (s.state = .derive ∧ s.ph = false → ctrlStep s = exec .derive s) ∧
    (s.state = .encrypting ∧ s.ph = false → ctrlStep s = exec .build s) ∧
    (s.busy = false ∨ s.ph = true → ctrlStep s = .next s) ∧
    (s.state = .encrypting ∧ s.ph = true →
      primStep true s = exec .respOk s ∧ primStep false s = exec .respFail s) ∧
    (¬(s.state = .encrypting ∧ s.ph = true) → ∀ ok, primStep ok s = .refused .responseNotOwed)

/-! ### GETID and the key deriver -/

/-- R91: the index rule, for every integer, and its unsigned form on 32-bit words. -/
def Obligations.IndexRuleDoesNotSaturate : Prop :=
  (∀ n : Int, 0 ≤ n → n ≤ 3 → ((idx n).val : Int) = n) ∧ (∀ n : Int, n < 0 ∨ 3 < n → idx n = 0) ∧
  (∀ w : Word, (idx w.toInt).val = if w.toNat ≤ 3 then w.toNat else 0)

/-- R94: what `GETID` writes and what it leaves, while not busy; while busy the write is dropped. -/
def Obligations.GetidReturnsSelectedWord : Prop :=
  (∀ s : State, s.busy = false →
    ∃ t, exec .getid s = .next t ∧
      t.idword = Config.hw.devid (idx s.index.toInt) ∧ t.cmderr = false ∧
      t.history = s.history ++ [.idRead (idx s.index.toInt)] ∧
      t.state = s.state ∧ t.ph = s.ph ∧ t.err = s.err ∧ t.outlen = s.outlen ∧
      SameOperands Config.hw s t ∧ SameOb Config.hw s t ∧ SameInternal s t ∧ SameOutside s t) ∧
  (∀ s : State, s.busy = true → exec .getid s = .next s)

/-- R48, R92, R93: the key is the low eight identifier bytes twice, byte `4*k + j` being bits `[8*j + 7 : 8*j]` of word
`k`; words 2 and 3 do not enter it. -/
def Obligations.KeyIsLowIdentifierBytesTwice : Prop :=
  (∀ (c : Config) (k j : Fin 4),
    did c ⟨4 * k.val + j.val, by omega⟩ = (c.devid k).extractLsb' (8 * j.val) 8) ∧
  (∀ (c : Config) (j : Fin 16), (deriveKey c)[j] = did c ⟨j.val % 8, by omega⟩) ∧
  (∀ c d : Config, c.devid 0 = d.devid 0 → c.devid 1 = d.devid 1 → deriveKey c = deriveKey d)

/-- R98: the words that `GETID` returns for indices 0 and 1, low byte first, are either half of the key. -/
def Obligations.KeyRecoverableFromTwoGetids : Prop :=
  ∀ (s₀ s₁ t₀ t₁ : State), s₀.busy = false → s₁.busy = false → s₀.index = 0 → s₁.index = 1 →
    exec .getid s₀ = .next t₀ → exec .getid s₁ = .next t₁ →
    ∀ j : Fin 4, ∀ half : Fin 2,
      (deriveKey Config.hw)[8 * half.val + j.val] = t₀.idword.extractLsb' (8 * j.val) 8 ∧
      (deriveKey Config.hw)[8 * half.val + 4 + j.val] = t₁.idword.extractLsb' (8 * j.val) 8

/-- R95, R104: what `DERIVE` with `ALLOC` writes and what it leaves. `NBLK` holds the block count of every length that was
accepted. -/
def Obligations.DeriveWritesKeyAndAllocates : Prop :=
  ∀ s : State, s.state = .derive → s.ph = false →
    ∃ t, exec .derive s = .next t ∧ t.key = deriveKey Config.hw ∧
      t.nblk = BitVec.ofNat 16 (ceil16 s.len.toNat) ∧
      (s.len.toNat ≤ Config.hw.cap → t.nblk.toNat = ceil16 s.len.toNat) ∧
      t.outlen = 0 ∧ t.i = 0 ∧ t.ph = false ∧
      (t.nblk = 0 → t.state = .done) ∧ (t.nblk ≠ 0 → t.state = .encrypting) ∧
      t.history = s.history ++ [.idRead 0, .idRead 1] ∧
      t.err = s.err ∧ t.cmderr = s.cmderr ∧ t.idword = s.idword ∧ t.iblk = s.iblk ∧ t.oblk = s.oblk ∧
      SameOperands Config.hw s t ∧ SameOb Config.hw s t ∧ SameOutside s t

/-- R104: the block count is the least number of 16-byte blocks that holds the cleartext; a multiple of 16 gets no extra
block and a length of 0 gets none; and the padded length of a cleartext that fits fits (R101). -/
def Obligations.BlockCountIsCeiling : Prop :=
  (∀ L n : Nat, L ≤ 16 * n ↔ ceil16 L ≤ n) ∧
  (∀ q r : Nat, 1 ≤ r → r ≤ 16 → ceil16 (16 * q + r) = q + 1) ∧ ceil16 0 = 0 ∧
  (∀ (c : Config) (L : Nat), L ≤ c.cap → 16 * ceil16 L ≤ c.cap ∧ ceil16 L ≤ 4096)

/-! ### ENCRYPT, the context gate, the block build -/

/-- R100: the acceptance of a cleartext that fits; while busy the write is dropped. -/
def Obligations.EncryptAcceptedWhenItFits : Prop :=
  (∀ s : State, s.busy = false → s.len.toNat ≤ Config.hw.cap →
    ∃ t, exec .encrypt s = .next t ∧ t.state = .ctxcheck ∧ t.cmderr = false ∧ t.err = none ∧ t.outlen = 0 ∧
      t.ph = false ∧ t.busy = true ∧ t.status = 0x09 ∧ decode (.seq4 t.seq none) = .ok .ctxchk ∧
      (∀ off, (∃ a, regionOf Config.hw off = .obByte a) → hostRead8 Config.hw t off = 0) ∧
      t.idword = s.idword ∧ t.history = s.history ∧
      SameOperands Config.hw s t ∧ SameOb Config.hw s t ∧ SameInternal s t ∧ SameOutside s t) ∧
  (∀ s : State, s.busy = true → exec .encrypt s = .next s)

/-- R101: a cleartext longer than `CAP` is refused in the step of the command, with no port event; and the padded length
of a cleartext that fits fits. -/
def Obligations.EncryptRefusesTooLong : Prop :=
  (∀ s : State, s.busy = false → Config.hw.cap < s.len.toNat →
    ∃ t, exec .encrypt s = .next t ∧ t.state = .aborted ∧ t.err = some .lengthRefused ∧ t.outlen = 0 ∧
      t.ph = false ∧ t.cmderr = false ∧ t.busy = false ∧ t.status = 0x35 ∧
      t.idword = s.idword ∧ t.history = s.history ∧
      SameOperands Config.hw s t ∧ SameOb Config.hw s t ∧ SameInternal s t ∧ SameOutside s t) ∧
  (∀ L : Nat, L ≤ Config.hw.cap → 16 * ceil16 L ≤ Config.hw.cap)

/-- R103: one sample of the context input decides between `DERIVE` and the abort with `PLATFORM_UNAVAILABLE`; no other
instruction looks at the input, so a change of it after the sample has no effect on the operation. -/
def Obligations.ContextGateDecides : Prop :=
  (∀ s : State, s.state = .ctxcheck → s.ph = false →
    ∃ t, exec .ctxchk s = .next t ∧ t.history = s.history ++ [.ctxSample s.ctxReady] ∧
      (s.ctxReady = true → t.state = .derive ∧ t.err = s.err ∧ t.outlen = s.outlen) ∧
      (s.ctxReady = false → t.state = .aborted ∧ t.err = some .platformUnavailable ∧ t.outlen = 0 ∧ t.busy = false) ∧
      t.ph = false ∧ t.cmderr = s.cmderr ∧ t.idword = s.idword ∧
      SameOperands Config.hw s t ∧ SameOb Config.hw s t ∧ SameInternal s t ∧ SameOutside s t) ∧
  (∀ (i : Instr) (s t : State) (level : Bool), i ≠ .ctxchk → exec i s = .next t →
    exec i { s with ctxReady := level } = .next { t with ctxReady := level })

/-- R105, R106: the padded block byte by byte, for both values of `ZERO_STOP`, and the three facts of R106. The spec
defines the blocks `i < ceil16 L` alone (in the last clause, where a shorter text `M` has the block, `i < ceil16 M`); that
the clauses hold of every other `i` too, whose block is all zero, is the model's inference (log entry 6). -/
def Obligations.PaddedBlockByteByByte : Prop :=
  (∀ (f : Nat → Byte) (L i : Nat) (j : Fin 16),
    (padblock false f L i)[j] = if 16 * i + j.val < L then f (16 * i + j.val) else 0) ∧
  (∀ (f : Nat → Byte) (L i : Nat) (j : Fin 16),
    (padblock true f L i)[j] =
      if 16 * i + j.val < L ∧ ∀ k, k < j.val → f (16 * i + k) ≠ 0 then f (16 * i + j.val) else 0) ∧
  (∀ (f : Nat → Byte) (L i : Nat),
    (∀ j k, j < k → k < avail L i → f (16 * i + j) = 0 → f (16 * i + k) = 0) →
    padblock true f L i = padblock false f L i) ∧
  (∀ (z : Bool) (f g : Nat → Byte) (L i : Nat),
    (∀ k, 16 * i ≤ k → k < 16 * i + 16 → k < L → f k = g k) → padblock z f L i = padblock z g L i) ∧
  (∀ (z : Bool) (f : Nat → Byte) (L M i : Nat), M ≤ L → (∀ k, M ≤ k → k < L → f k = 0) →
    padblock z f L i = padblock z f M i)

/-- R107: what `BUILD` writes and what it leaves, under the precondition that R107 says always holds. -/
def Obligations.BuildRequestsPaddedBlock : Prop :=
  ∀ s : State, s.state = .encrypting → s.ph = false → s.i.toNat < ceil16 s.len.toNat → s.len.toNat ≤ Config.hw.cap →
    ∃ t, exec .build s = .next t ∧
      t.iblk = padblock Config.hw.zeroStop (s.ctByte Config.hw) s.len.toNat s.i.toNat ∧
      t.oblk = Block.zeros ∧ t.ph = true ∧
      t.history = s.history ++ [.primRequest s.key t.iblk] ∧
      t.outstanding = some (packRequest s.key t.iblk) ∧
      t.state = s.state ∧ t.err = s.err ∧ t.cmderr = s.cmderr ∧ t.idword = s.idword ∧ t.outlen = s.outlen ∧
      t.key = s.key ∧ t.i = s.i ∧ t.nblk = s.nblk ∧
      SameOperands Config.hw s t ∧ SameOb Config.hw s t ∧ SameOutside s t

/-! ### The accumulator -/

/-- R121: the success arm of `RESP`, where the block lies in the buffer: the append at `16 * I`, the length, the loop test,
and what it leaves. The counts are exact when `OUTLEN = 16 * I`, as it is in every run (R26 item 4). -/
def Obligations.RespOkAppendsBlock : Prop :=
  ∀ s : State, s.state = .encrypting → s.ph = true → 16 * s.i.toNat + 16 ≤ Config.hw.cap →
    ∃ t, exec .respOk s = .next t ∧
      t.oblk = Config.hw.e s.key s.iblk ∧
      (∀ k : Fin 16, t.obByte Config.hw (16 * s.i.toNat + k.val) = (Config.hw.e s.key s.iblk)[k]) ∧
      (∀ a, a < 16 * s.i.toNat ∨ 16 * s.i.toNat + 16 ≤ a → t.obByte Config.hw a = s.obByte Config.hw a) ∧
      t.outlen = s.outlen + 16 ∧ t.ph = false ∧ t.i = s.i + 1 ∧ t.i.toNat = s.i.toNat + 1 ∧
      (s.outlen.toNat = 16 * s.i.toNat → t.outlen.toNat = s.outlen.toNat + 16 ∧ t.outlen.toNat ≤ Config.hw.cap) ∧
      (t.i = s.nblk → t.state = .done) ∧ (t.i ≠ s.nblk → t.state = .encrypting) ∧
      t.history = s.history ++ [.primOk (Config.hw.e s.key s.iblk)] ∧
      t.err = s.err ∧ t.cmderr = s.cmderr ∧ t.idword = s.idword ∧ t.key = s.key ∧ t.iblk = s.iblk ∧ t.nblk = s.nblk ∧
      SameOperands Config.hw s t ∧ SameOutside s t

/-- R122: the failure arm of `RESP`: the abort with `PRIMITIVE_FAILURE`, and everything it leaves, the physical bytes of
`OB` among it; no byte of `OB` is readable after it. -/
def Obligations.RespFailDiscards : Prop :=
  ∀ s : State, s.state = .encrypting → s.ph = true →
    ∃ t, exec .respFail s = .next t ∧ t.state = .aborted ∧ t.err = some .primitiveFailure ∧ t.outlen = 0 ∧
      t.ph = false ∧ t.busy = false ∧ t.history = s.history ++ [.primFail] ∧
      (∀ off, (∃ a, regionOf Config.hw off = .obByte a) → hostRead8 Config.hw t off = 0) ∧
      t.cmderr = s.cmderr ∧ t.idword = s.idword ∧
      SameOperands Config.hw s t ∧ SameOb Config.hw s t ∧ SameInternal s t ∧ SameOutside s t

/-- R120: a response is taken only with a request outstanding; elsewhere both arms of `RESP` are refused. -/
def Obligations.ResponseRefusedWhenNotOwed : Prop :=
  ∀ s : State, ¬(s.state = .encrypting ∧ s.ph = true) →
    exec .respOk s = .refused .responseNotOwed ∧ exec .respFail s = .refused .responseNotOwed

/-- The model's choice, log entry 8: `BUILD` and `RESP.OK` stop with a fault of that name where they would access a buffer
at or above `CAP`, which by R54 no run does. -/
def Obligations.AccessBeyondBufferFaults : Prop :=
  (∀ s : State, s.state = .encrypting → s.ph = false → 16 * s.i.toNat < s.len.toNat →
    Config.hw.cap < 16 * s.i.toNat + min 16 (s.len.toNat - 16 * s.i.toNat) →
    exec .build s = .fault (.beyondBuffer .ct)) ∧
  (∀ s : State, s.state = .encrypting → s.ph = true → Config.hw.cap < 16 * s.i.toNat + 16 →
    exec .respOk s = .fault (.beyondBuffer .ob))

/-- R78 with the model's choice, log entry 7: a micro-operation of `CTRL` outside the state that enables it does not
happen. -/
def Obligations.DisabledMicroOperationDoesNothing : Prop :=
  ∀ s : State,
    (¬(s.state = .ctxcheck ∧ s.ph = false) → exec .ctxchk s = .next s) ∧
    (¬(s.state = .derive ∧ s.ph = false) → exec .derive s = .next s) ∧
    (¬(s.state = .encrypting ∧ s.ph = false) → exec .build s = .next s)

/-- R144, R140: every abort, whichever instruction raises it, makes the same four writes, records the cause of that
instruction, and leaves all else. -/
def Obligations.EveryAbortMakesTheSameEntry : Prop :=
  ∀ (i : Instr) (s t : State), exec i s = .next t → t.state = .aborted → (s.state ≠ .aborted ∨ i = .encrypt) →
    t.outlen = 0 ∧ t.ph = false ∧ t.busy = false ∧
    ((i = .encrypt ∧ t.err = some .lengthRefused) ∨ (i = .ctxchk ∧ t.err = some .platformUnavailable) ∨
      (i = .respFail ∧ t.err = some .primitiveFailure)) ∧
    t.idword = s.idword ∧ SameOperands Config.hw s t ∧ SameOb Config.hw s t ∧ SameInternal s t ∧ SameOutside s t

/-! ### The host port -/

/-- R41: a bus address selects an offset exactly inside the window at `BASE`, and then the offset it is `BASE` plus. -/
def Obligations.WindowStandsAtBase : Prop :=
  (∀ (c : Config) (off : Offset), c.offsetOf (c.busAddress off) = some off) ∧
  (∀ (c : Config) (addr : Nat) (off : Offset), c.offsetOf addr = some off → addr = c.busAddress off) ∧
  (∀ (c : Config) (addr : Nat), c.offsetOf addr = none ↔ addr < c.base ∨ c.base + 0x40000 ≤ addr)

/-- R41: the host window's map: which register, aperture byte or reserved place each offset is. -/
def Obligations.WindowMapIsAsTabled : Prop :=
  ∀ (c : Config) (off : Offset),
    (∀ r : HostReg, regionOf c off = .reg r ↔ off = r.offset) ∧
    (∀ a : Nat, regionOf c off = .ctByte a ↔ off.toNat = 0x10000 + a ∧ a < c.cap) ∧
    (∀ a : Nat, regionOf c off = .obByte a ↔ off.toNat = 0x20000 + a ∧ a < c.cap)

/-- R14: the fields of the word read from `STATUS`. -/
def Obligations.StatusFieldsAreTheFlags : Prop :=
  ∀ s : State,
    s.status.extractLsb' 0 3 = s.state.code ∧ s.status.getLsbD 3 = s.busy ∧ s.status.extractLsb' 4 2 = errCode s.err ∧
    s.status.getLsbD 6 = s.cmderr ∧ s.status.getLsbD 7 = s.ph ∧ s.status.extractLsb' 8 24 = 0

/-- R77: the words that can be read from `STATUS` in a state that meets the invariants. -/
def Obligations.StatusWordsAreTheTabledOnes : Prop :=
  ∀ s : State, Inv Config.hw s →
    s.status ∈ ([0x00, 0x09, 0x0A, 0x0B, 0x8B, 0x04, 0x15, 0x25, 0x35, 0x40, 0x44, 0x55, 0x65, 0x75] : List Word) ∧
    (s.busy = true → s.status ∈ ([0x09, 0x0A, 0x0B, 0x8B] : List Word))

/-- R44, R45, R53: a word read is one step that leaves ECBC unchanged and returns the register at the offset, or zero. -/
def Obligations.WordReadReturnsRegister : Prop :=
  ∀ (s : State) (off : Offset) (rest : List Move), s.schedule = .host (.read32 off) :: rest →
    ∃ v : Word, step s = .next { s with schedule := rest, replies := s.replies ++ [.word v] } ∧
      (off = 0x00 → v = 0) ∧ (off = 0x04 → v = s.status) ∧ (off = 0x08 → v = s.index) ∧ (off = 0x0C → v = s.len) ∧
      (off = 0x10 → v = s.idword) ∧ (off = 0x14 → v = s.outlen) ∧
      (off.toNat % 4 ≠ 0 ∨ 0x18 ≤ off.toNat → v = 0)

/-- R42, R43, R44, R53: a byte read is one step that leaves ECBC unchanged and returns a byte of `CT`, a byte of `OB`
through the gate, or zero. -/
def Obligations.ByteReadGoesThroughTheGate : Prop :=
  ∀ (s : State) (off : Offset) (rest : List Move), s.schedule = .host (.read8 off) :: rest →
    ∃ v : Byte, step s = .next { s with schedule := rest, replies := s.replies ++ [.byte v] } ∧
      (∀ a, a < Config.hw.cap → off.toNat = 0x10000 + a → v = s.ctByte Config.hw a) ∧
      (∀ a, a < Config.hw.cap → off.toNat = 0x20000 + a →
        v = if s.state = .done ∧ a < s.outlen.toNat then s.obByte Config.hw a else 0) ∧
      ((∀ a, a < Config.hw.cap → off.toNat ≠ 0x10000 + a ∧ off.toNat ≠ 0x20000 + a) → v = 0)

/-- R46, R146: a word write while not busy: the two operand registers, the command word, and no effect anywhere else. -/
def Obligations.WordWriteWhenNotBusy : Prop :=
  ∀ (s : State) (off : Offset) (v : Word) (rest : List Move), s.busy = false →
    s.schedule = .host (.write32 off v) :: rest →
    (off = 0x08 → step s = .next { s with schedule := rest, index := v }) ∧
    (off = 0x0C → step s = .next { s with schedule := rest, len := v }) ∧
    (off = 0x00 → v = 0x00000001 → step s = exec .getid { s with schedule := rest }) ∧
    (off = 0x00 → v = 0x00000002 → step s = exec .encrypt { s with schedule := rest }) ∧
    (off = 0x00 → v ≠ 0x00000001 → v ≠ 0x00000002 → step s = .next { s with schedule := rest, cmderr := true }) ∧
    (off ≠ 0x00 → off ≠ 0x08 → off ≠ 0x0C → step s = .next { s with schedule := rest })

/-- R42, R43, R44: a byte write while not busy writes one byte of `CT` and nothing else, or has no effect. -/
def Obligations.ByteWriteWhenNotBusy : Prop :=
  ∀ (s : State) (off : Offset) (v : Byte) (rest : List Move), s.busy = false →
    s.schedule = .host (.write8 off v) :: rest →
    ∃ t, step s = .next t ∧ t = { s with schedule := rest, ct := t.ct } ∧
      (∀ a, a < Config.hw.cap → off.toNat = 0x10000 + a →
        t.ctByte Config.hw a = v ∧ ∀ x, x ≠ a → t.ctByte Config.hw x = s.ctByte Config.hw x) ∧
      ((∀ a, a < Config.hw.cap → off.toNat ≠ 0x10000 + a) → t.ct = s.ct)

/-- R47: while busy every write, of either width, to any offset, leaves the whole state unchanged. -/
def Obligations.WritesDroppedWhileBusy : Prop :=
  ∀ (s : State) (off : Offset) (rest : List Move), s.busy = true →
    (∀ v : Word, s.schedule = .host (.write32 off v) :: rest → step s = .next { s with schedule := rest }) ∧
    (∀ v : Byte, s.schedule = .host (.write8 off v) :: rest → step s = .next { s with schedule := rest })

/-- R11: who writes what, in one step that is no reset: the operand registers and `CT` the host while not busy; `IDWORD`
only `GETID`; `CMDERR` only a write to `CMD`; `ERR` only `ENCRYPT` and the two aborts that follow it; `OUTLEN` those,
`DERIVE` and the success arm of `RESP`; `STATE` only the acceptance of `ENCRYPT`, `CTXCHK`, `DERIVE` and either arm of
`RESP`; `PH` only that acceptance (R100), `BUILD` and either arm; `KEY` and `NBLK` only `DERIVE`; `IBLK` only `BUILD`; `OBLK` `BUILD` and the
success arm; `I` `DERIVE` and that arm; `OB` only that arm. -/
def Obligations.EachRegisterHasItsWriters : Prop :=
  ∀ s t : State, step s = .next t → s.nextMove ≠ .reset →
    (¬SameOperands Config.hw s t → s.busy = false ∧ ∃ x, s.nextMove = .host x) ∧
    (t.idword ≠ s.idword → s.busy = false ∧ s.nextMove = .host (.write32 0x00000 0x00000001)) ∧
    (t.cmderr ≠ s.cmderr → s.busy = false ∧ ∃ v, s.nextMove = .host (.write32 0x00000 v)) ∧
    (t.err ≠ s.err → (s.busy = false ∧ s.nextMove = .host (.write32 0x00000 0x00000002)) ∨
      (s.state = .ctxcheck ∧ s.nextMove = .ctrl) ∨ (s.state = .encrypting ∧ s.ph = true ∧ s.nextMove = .prim false)) ∧
    (t.outlen ≠ s.outlen → (s.busy = false ∧ s.nextMove = .host (.write32 0x00000 0x00000002)) ∨
      ((s.state = .ctxcheck ∨ s.state = .derive) ∧ s.nextMove = .ctrl) ∨
      (s.state = .encrypting ∧ s.ph = true ∧ ∃ ok, s.nextMove = .prim ok)) ∧
    (t.state ≠ s.state → (s.busy = false ∧ s.nextMove = .host (.write32 0x00000 0x00000002)) ∨
      ((s.state = .ctxcheck ∨ s.state = .derive) ∧ s.nextMove = .ctrl) ∨
      (s.state = .encrypting ∧ s.ph = true ∧ ∃ ok, s.nextMove = .prim ok)) ∧
    (t.ph ≠ s.ph → (s.busy = false ∧ s.nextMove = .host (.write32 0x00000 0x00000002)) ∨
      (s.state = .encrypting ∧ s.ph = false ∧ s.nextMove = .ctrl) ∨
      (s.state = .encrypting ∧ s.ph = true ∧ ∃ ok, s.nextMove = .prim ok)) ∧
    (t.key ≠ s.key ∨ t.nblk ≠ s.nblk → s.state = .derive ∧ s.nextMove = .ctrl) ∧
    (t.iblk ≠ s.iblk → s.state = .encrypting ∧ s.ph = false ∧ s.nextMove = .ctrl) ∧
    (t.oblk ≠ s.oblk → s.state = .encrypting ∧
      ((s.ph = false ∧ s.nextMove = .ctrl) ∨ (s.ph = true ∧ s.nextMove = .prim true))) ∧
    (t.i ≠ s.i → (s.state = .derive ∧ s.nextMove = .ctrl) ∨
      (s.state = .encrypting ∧ s.ph = true ∧ s.nextMove = .prim true)) ∧
    (¬SameOb Config.hw s t → s.state = .encrypting ∧ s.ph = true ∧ s.nextMove = .prim true)

/-- R57 item 4: with `BUSY = 0`, no step but an accepted `ENCRYPT` or a reset changes the state, the error code, the length
or a visible byte of the result. -/
def Obligations.ResultStaysUntilNextEncrypt : Prop :=
  ∀ s t : State, s.busy = false → s.outlen.toNat ≤ Config.hw.cap → step s = .next t → s.nextMove ≠ .reset →
    s.nextMove ≠ .host (.write32 0x00000 0x00000002) →
    t.state = s.state ∧ t.err = s.err ∧ t.outlen = s.outlen ∧ t.flattenedResult Config.hw = s.flattenedResult Config.hw ∧
    t.taggedResult Config.hw = s.taggedResult Config.hw

/-- R112: no host transaction and no change of the context input moves a running operation: such a step leaves every
register, both buffers and the port history as they are. -/
def Obligations.HostCannotDisturbOperation : Prop :=
  ∀ s : State, s.busy = true → (∃ x, s.nextMove = .host x) ∨ (∃ b, s.nextMove = .ctx b) →
    ∃ (b : Bool) (r : List HostReply),
      step s = .next { s with schedule := s.schedule.tail, ctxReady := b, replies := s.replies ++ r }

/-- R19, R97: no host read shows the internal registers: in two states that differ in them alone, every read returns the
same. -/
def Obligations.InternalRegistersInvisibleToHost : Prop :=
  ∀ (s : State) (key iblk oblk : Block) (i nblk : BitVec 16) (off : Offset),
    let t := { s with key := key, iblk := iblk, oblk := oblk, i := i, nblk := nblk }
    hostRead32 Config.hw t off = hostRead32 Config.hw s off ∧ hostRead8 Config.hw t off = hostRead8 Config.hw s off

/-- R43, R126: outside `DONE`, and at or above `OUTLEN`, the physical bytes of `OB` cannot be told apart by any read. -/
def Obligations.DiscardedBytesUnreadable : Prop :=
  ∀ s t : State, t = { s with ob := t.ob } →
    (s.state = .done → ∀ a, a < s.outlen.toNat → t.obByte Config.hw a = s.obByte Config.hw a) →
    ∀ off : Offset, hostRead32 Config.hw t off = hostRead32 Config.hw s off ∧
      hostRead8 Config.hw t off = hostRead8 Config.hw s off

/-! ### Port formats -/

/-- R49, R79, R80: the lanes of a block on the port, and where the halves of a request, the `ok`
bit and the lanes of a response lie, and that the formats lose nothing; the lanes of a failure are ignored. -/
def Obligations.PortFormatsLoseNothing : Prop :=
  (∀ (b : Block) (j : Fin 16), (packBlock b).extractLsb' (8 * j.val) 8 = b[j]) ∧
  (∀ b : Block, unpackBlock (packBlock b) = b) ∧ (∀ v : BitVec 128, packBlock (unpackBlock v) = v) ∧
  (∀ key block : Block, unpackRequest (packRequest key block) = (key, block)) ∧
  (∀ key block : Block, (packRequest key block).extractLsb' 0 128 = packBlock key ∧
    (packRequest key block).extractLsb' 128 128 = packBlock block) ∧
  (∀ (ok : Bool) (lanes : BitVec 128), (packResponse ok lanes).getLsbD 128 = ok ∧
    (packResponse ok lanes).extractLsb' 0 128 = lanes) ∧
  (∀ ct : Block, unpackResponse (packResponse true (packBlock ct)) = some ct) ∧
  (∀ lanes : BitVec 128, unpackResponse (packResponse false lanes) = none)

/-! ### Invariants -/

/-- R26: from every state that meets the invariants, every step keeps them. -/
def Obligations.StepKeepsInvariants : Prop :=
  ∀ s t : State, Inv Config.hw s → step s = .next t → Inv Config.hw t

/-- R124, R109: every step keeps that the blocks below `I` are the ciphertext of their windows and that the outstanding
request carries the padded block `I`. -/
def Obligations.StepKeepsProgress : Prop :=
  ∀ s t : State, Inv Config.hw s → Progress Config.hw s → step s = .next t → Progress Config.hw t

/-- R44, R54, R56: from every state that meets the invariants a step goes on, but for a response that no request is owed. -/
def Obligations.InvariantStatesNeverStop : Prop :=
  ∀ s : State, Inv Config.hw s →
    (∃ t, step s = .next t) ∨
    (step s = .refused .responseNotOwed ∧ ∃ ok, s.nextMove = .prim ok ∧ ¬(s.state = .encrypting ∧ s.ph = true))

/-- R78: how one step moves the sequencer. In a state that meets the invariants, a step that is no reset makes only the
transitions of the table. -/
def Obligations.SequencerTransitions : Prop :=
  ∀ s t : State, Inv Config.hw s → step s = .next t → s.nextMove ≠ .reset →
    (t.state = s.state ∧ t.ph = s.ph) ∨
    (s.busy = false ∧ t.ph = false ∧ (t.state = .ctxcheck ∨ t.state = .aborted)) ∨
    (s.state = .ctxcheck ∧ t.ph = false ∧ (t.state = .derive ∨ t.state = .aborted)) ∨
    (s.state = .derive ∧ t.ph = false ∧
      ((ceil16 s.len.toNat = 0 ∧ t.state = .done) ∨ (0 < ceil16 s.len.toNat ∧ t.state = .encrypting))) ∨
    (s.state = .encrypting ∧ s.ph = false ∧ t.state = .encrypting ∧ t.ph = true) ∨
    (s.state = .encrypting ∧ s.ph = true ∧ t.ph = false ∧
      ((s.i.toNat + 1 < s.nblk.toNat ∧ t.state = .encrypting) ∨ (s.i.toNat + 1 = s.nblk.toNat ∧ t.state = .done) ∨
        t.state = .aborted))

/-- R123: the response that ends the last block leaves in `OB` the ciphertext of every window, and the host reads it. -/
def Obligations.LastResponseDeliversWholeResult : Prop :=
  ∀ s : State, Inv Config.hw s → Progress Config.hw s → s.state = .encrypting → s.ph = true →
    s.i.toNat + 1 = s.nblk.toNat →
    ∃ t, exec .respOk s = .next t ∧ t.state = .done ∧ t.err = none ∧ t.outlen.toNat = 16 * ceil16 s.len.toNat ∧
      ∀ j, j < ceil16 s.len.toNat → ∀ k : Fin 16,
        hostRead8 Config.hw t (BitVec.ofNat 18 (0x20000 + 16 * j + k.val)) =
          (Config.hw.e (deriveKey Config.hw)
            (padblock Config.hw.zeroStop (s.ctByte Config.hw) s.len.toNat j))[k]

/-- R173, R127: an operation has at most `2 + 2 * NBLK` micro-operations. From a state that meets the invariants, the count
that is left is 0 exactly when not busy, starts at that bound, and every step that is no reset either takes a
micro-operation and lowers it or leaves the operation as it is. -/
def Obligations.RemainingStepsDecrease : Prop :=
  (∀ s : State, Inv Config.hw s → (s.remaining = 0 ↔ s.busy = false)) ∧
  (∀ s t : State, exec .encrypt s = .next t → s.busy = false → t.remaining ≤ 2 + 2 * ceil16 s.len.toNat) ∧
  (∀ s t : State, Inv Config.hw s → s.busy = true → step s = .next t → s.nextMove ≠ .reset →
    t.remaining < s.remaining ∨
    (t.remaining = s.remaining ∧
      ((∃ x, s.nextMove = .host x) ∨ (∃ b, s.nextMove = .ctx b) ∨ (s.nextMove = .ctrl ∧ s.ph = true))))

/-- R157: with a request outstanding and no response in store, ECBC hangs: no number of steps changes anything. -/
def Obligations.NoResponseHangs : Prop :=
  ∀ (s : State) (k : Nat), s.state = .encrypting → s.ph = true → s.schedule = [] →
    Host.Core.run core k s = .next s ∧ (Inv Config.hw s → s.status = 0x8B)

/-- R78, R155, R163: in a state that is not busy, ECBC does nothing until the host does. -/
def Obligations.NotBusyWaitsForHost : Prop :=
  ∀ (s : State) (k : Nat), s.busy = false → s.schedule = [] → Host.Core.run core k s = .next s

/-! ### The whole operation -/

/-- R127: a whole `ENCRYPT`, with any host transactions between its moves, ends in a terminal state whose tagged result is
`encryptOp` of the cleartext, the context sample and the failing requests, and whose flattened result is what the host
reads; it takes at most `2 + 2 * ceil16(L)` micro-operations. -/
def Obligations.OperationComputesEncryptOp : Prop :=
  ∀ (s : State) (ctx : Bool) (fails : Nat → Bool) (noise : Nat → List HostTxn) (rest : List Move),
    s.busy = false →
    s.schedule = operationSchedule Config.hw s.len.toNat ctx fails noise ++ rest →
    ∃ t, Host.Core.run core (operationSchedule Config.hw s.len.toNat ctx fails noise).length s = .next t ∧
      t.schedule = rest ∧ t.busy = false ∧
      t.taggedResult Config.hw = some (encryptOp Config.hw (s.ctByte Config.hw) s.len.toNat ctx fails) ∧
      t.flattenedResult Config.hw = (encryptOp Config.hw (s.ctByte Config.hw) s.len.toNat ctx fails).flatten ∧
      (operationMoves Config.hw s.len.toNat ctx fails).countP Move.isMicro ≤ 2 + 2 * ceil16 s.len.toNat

/-- R111, R95, R103: the port events of a whole `ENCRYPT`, in order. -/
def Obligations.OperationPortHistory : Prop :=
  ∀ (s : State) (ctx : Bool) (fails : Nat → Bool) (noise : Nat → List HostTxn) (rest : List Move),
    s.busy = false →
    s.schedule = operationSchedule Config.hw s.len.toNat ctx fails noise ++ rest →
    ∃ t, Host.Core.run core (operationSchedule Config.hw s.len.toNat ctx fails noise).length s = .next t ∧
      t.history = s.history ++ operationEvents Config.hw (s.ctByte Config.hw) s.len.toNat ctx fails

/-- R111: the number of requests, identifier reads and context samples of an operation, in each of its outcomes. -/
def Obligations.InvocationCounts : Prop :=
  ∀ (c : Config) (ct : Nat → Byte) (L : Nat) (ctx : Bool) (fails : Nat → Bool),
    let ev := operationEvents c ct L ctx fails
    (c.cap < L → ev.countP PortEvent.isRequest = 0 ∧ ev.countP PortEvent.isIdRead = 0 ∧
      ev.countP PortEvent.isSample = 0) ∧
    (L ≤ c.cap → ctx = false → ev.countP PortEvent.isRequest = 0 ∧ ev.countP PortEvent.isIdRead = 0 ∧
      ev.countP PortEvent.isSample = 1) ∧
    (L ≤ c.cap → ctx = true → ∀ k, firstFailure fails (ceil16 L) = some k →
      ev.countP PortEvent.isRequest = k + 1 ∧ ev.countP PortEvent.isIdRead = 2 ∧ ev.countP PortEvent.isSample = 1) ∧
    (L ≤ c.cap → ctx = true → firstFailure fails (ceil16 L) = none →
      ev.countP PortEvent.isRequest = ceil16 L ∧ ev.countP PortEvent.isIdRead = 2 ∧ ev.countP PortEvent.isSample = 1)

/-- R128 items 1, 2, 4 to 8, of the operation as a function: the length of a success, locality, the two failures, and what
the output does not depend on. -/
def Obligations.LawsOfTheOperation : Prop :=
  ∀ (c : Config) (ct : Nat → Byte) (L : Nat) (ctx : Bool) (fails : Nat → Bool),
    (∀ out, encryptOp c ct L ctx fails = .done out → out.length = 16 * ceil16 L ∧
      ∀ i, i < ceil16 L → (out.drop (16 * i)).take 16 =
        (c.e (deriveKey c) (padblock c.zeroStop ct L i)).toList) ∧
    (∀ out, encryptOp c ct L ctx fails = .done out → ∀ i j, i < ceil16 L → j < ceil16 L →
      padblock c.zeroStop ct L i = padblock c.zeroStop ct L j →
      (out.drop (16 * i)).take 16 = (out.drop (16 * j)).take 16) ∧
    (L ≤ c.cap → ctx = false → encryptOp c ct L ctx fails = .aborted .platformUnavailable) ∧
    (L ≤ c.cap → ctx = true → (∃ k, k < ceil16 L ∧ fails k = true) →
      encryptOp c ct L ctx fails = .aborted .primitiveFailure) ∧
    (L ≤ c.cap → ctx = true → (∀ k, k < ceil16 L → fails k = false) → ∃ out, encryptOp c ct L ctx fails = .done out) ∧
    (∀ ct' : Nat → Byte, (∀ a, a < L → ct' a = ct a) → encryptOp c ct' L ctx fails = encryptOp c ct L ctx fails) ∧
    (∀ d : Config, d.devid 0 = c.devid 0 → d.devid 1 = c.devid 1 → d.e = c.e → d.zeroStop = c.zeroStop →
      d.capBlocks = c.capBlocks → encryptOp d ct L ctx fails = encryptOp c ct L ctx fails)

/-- R128 items 3 and 7, R96, on the machine: two whole operations on the same cleartext with the same context sample and
the same failing requests have the same result, whatever else the two states hold and whatever the host does meanwhile. -/
def Obligations.EqualCleartextsEncryptEqually : Prop :=
  ∀ (s₁ s₂ : State) (ctx : Bool) (fails : Nat → Bool) (noise₁ noise₂ : Nat → List HostTxn) (rest₁ rest₂ : List Move),
    s₁.busy = false → s₂.busy = false → s₁.len = s₂.len →
    (∀ a, a < s₁.len.toNat → s₁.ctByte Config.hw a = s₂.ctByte Config.hw a) →
    s₁.schedule = operationSchedule Config.hw s₁.len.toNat ctx fails noise₁ ++ rest₁ →
    s₂.schedule = operationSchedule Config.hw s₂.len.toNat ctx fails noise₂ ++ rest₂ →
    ∃ t₁ t₂,
      Host.Core.run core (operationSchedule Config.hw s₁.len.toNat ctx fails noise₁).length s₁ = .next t₁ ∧
      Host.Core.run core (operationSchedule Config.hw s₂.len.toNat ctx fails noise₂).length s₂ = .next t₂ ∧
      t₁.taggedResult Config.hw = t₂.taggedResult Config.hw ∧
      t₁.flattenedResult Config.hw = t₂.flattenedResult Config.hw

/-! ### The host's idioms -/

/-- R57 item 5, R83: `GETDEVICEID n` while not busy returns the word that the index rule selects for `n`, and leaves it in
`IDWORD`. -/
def Obligations.GetDeviceIdReturnsWord : Prop :=
  ∀ (s : State) (n : Int) (rest : List Move), s.busy = false → -2 ^ 31 ≤ n → n < 2 ^ 31 →
    s.schedule = asmMoves (getDeviceIdLines n) ++ rest →
    ∃ t, Host.Core.run core 3 s = .next t ∧ t.replies = s.replies ++ [.word (Config.hw.devid (idx n))] ∧
      t.idword = Config.hw.devid (idx n) ∧ t.index = BitVec.ofInt 32 n ∧ t.schedule = rest

/-- R83, R57 item 3: `LOAD` while not busy leaves its bytes in `CT[0 .. n)`, their number in `LEN`, and nothing else
changed. -/
def Obligations.LoadPlacesCleartext : Prop :=
  ∀ (s : State) (bytes : List Byte) (rest : List Move), s.busy = false → bytes.length ≤ Config.hw.cap →
    s.schedule = asmMoves (loadLines bytes) ++ rest →
    ∃ t, Host.Core.run core (bytes.length + 1) s = .next t ∧
      t = { s with schedule := rest, len := t.len, ct := t.ct } ∧ t.len.toNat = bytes.length ∧
      (∀ (a : Nat) (h : a < bytes.length), t.ctByte Config.hw a = bytes[a]) ∧
      (∀ a, bytes.length ≤ a → t.ctByte Config.hw a = s.ctByte Config.hw a)

/-- R83, `POLL`: each turn reads `STATUS`, and with the moves of the other agents in between or without, the turn ends the
`POLL` exactly when `BUSY` is 0 after it; the value it read last is its result. With nothing in between it ends at once
when not busy, and repeats for ever while busy. -/
def Obligations.PollRepeatsUntilNotBusy : Prop :=
  (∀ (gap : List Move) (rest left : List HostItem) (s t : State),
    hostTurn gap (.poll :: rest) s = .next (left, t) →
    t.pollResult = some t.status ∧ (t.busy = false → left = rest) ∧ (t.busy = true → left = .poll :: rest)) ∧
  (∀ (s : State) (rest : List HostItem), s.busy = false →
    hostTurn [] (.poll :: rest) s = .next (rest, { s with replies := s.replies ++ [.word s.status] })) ∧
  (∀ (s : State) (k : Nat), s.busy = true →
    hostRun (List.replicate k []) [.poll] s =
      .next ([.poll], { s with replies := s.replies ++ List.replicate k (.word s.status) }))

/-- R83, R125, R127, `ENCRYPTCALL` while not busy, where the moves of the operation fall in any way between its reads of
`STATUS` (`early` before all but the last of them, `last` before the last): the host reads busy words, then one word with
`BUSY = 0`, then `OUTLEN`, then exactly that many bytes, which are the flattened result of `encryptOp`. That the other
agents' moves are given as lists is the model's choice (log entry 3). -/
def Obligations.EncryptCallReadsFlattenedResult : Prop :=
  ∀ (s : State) (ctx : Bool) (fails : Nat → Bool) (early : List (List Move)) (last : List Move),
    s.busy = false → early.flatten ++ last = operationMoves Config.hw s.len.toNat ctx fails →
    early = [] ∨ last ≠ [] →
    let result := encryptOp Config.hw (s.ctByte Config.hw) s.len.toNat ctx fails
    ∃ (t : State) (polled : List Word),
      hostRun ([] :: early ++ last :: List.replicate (1 + result.flatten.length) []) encryptCallProgram s =
        .next ([], t) ∧
      t.replies = s.replies ++ polled.map .word ++ [.word t.outlen] ++ result.flatten.map .byte ∧
      t.outlen.toNat = result.flatten.length ∧ polled.length = early.length + 1 ∧
      (∀ w ∈ polled.dropLast, pollEnds w = false) ∧ polled.getLast? = some t.status ∧
      t.busy = false ∧ t.taggedResult Config.hw = some result ∧ t.schedule = s.schedule
end

