-- ==== Sys2Proof/Laws/State.lean ====
section
/-! SUPPORT. What each shared operation does to each field of the state, true by unfolding the record update once. -/

namespace Sys2Proof.Machine

open Sys2Proof

variable (s : State)

/-! Abort entry (R144): four fields written, the rest kept. -/

@[simp] theorem State.abort_state (cause : AbortCause) : (s.abort cause).state = .aborted := rfl
@[simp] theorem State.abort_ph (cause : AbortCause) : (s.abort cause).ph = false := rfl
@[simp] theorem State.abort_err (cause : AbortCause) : (s.abort cause).err = some cause := rfl
@[simp] theorem State.abort_cmderr (cause : AbortCause) : (s.abort cause).cmderr = s.cmderr := rfl
@[simp] theorem State.abort_index (cause : AbortCause) : (s.abort cause).index = s.index := rfl
@[simp] theorem State.abort_len (cause : AbortCause) : (s.abort cause).len = s.len := rfl
@[simp] theorem State.abort_idword (cause : AbortCause) : (s.abort cause).idword = s.idword := rfl
@[simp] theorem State.abort_outlen (cause : AbortCause) : (s.abort cause).outlen = 0 := rfl
@[simp] theorem State.abort_key (cause : AbortCause) : (s.abort cause).key = s.key := rfl
@[simp] theorem State.abort_iblk (cause : AbortCause) : (s.abort cause).iblk = s.iblk := rfl
@[simp] theorem State.abort_oblk (cause : AbortCause) : (s.abort cause).oblk = s.oblk := rfl
@[simp] theorem State.abort_i (cause : AbortCause) : (s.abort cause).i = s.i := rfl
@[simp] theorem State.abort_nblk (cause : AbortCause) : (s.abort cause).nblk = s.nblk := rfl
@[simp] theorem State.abort_ct (cause : AbortCause) : (s.abort cause).ct = s.ct := rfl
@[simp] theorem State.abort_ob (cause : AbortCause) : (s.abort cause).ob = s.ob := rfl
@[simp] theorem State.abort_ctxReady (cause : AbortCause) : (s.abort cause).ctxReady = s.ctxReady := rfl
@[simp] theorem State.abort_resets (cause : AbortCause) : (s.abort cause).resets = s.resets := rfl
@[simp] theorem State.abort_schedule (cause : AbortCause) : (s.abort cause).schedule = s.schedule := rfl
@[simp] theorem State.abort_history (cause : AbortCause) : (s.abort cause).history = s.history := rfl
@[simp] theorem State.abort_replies (cause : AbortCause) : (s.abort cause).replies = s.replies := rfl

/-! The writes at acceptance (R100). -/

@[simp] theorem State.clearForEncrypt_state : s.clearForEncrypt.state = s.state := rfl
@[simp] theorem State.clearForEncrypt_ph : s.clearForEncrypt.ph = false := rfl
@[simp] theorem State.clearForEncrypt_err : s.clearForEncrypt.err = none := rfl
@[simp] theorem State.clearForEncrypt_cmderr : s.clearForEncrypt.cmderr = false := rfl
@[simp] theorem State.clearForEncrypt_index : s.clearForEncrypt.index = s.index := rfl
@[simp] theorem State.clearForEncrypt_len : s.clearForEncrypt.len = s.len := rfl
@[simp] theorem State.clearForEncrypt_idword : s.clearForEncrypt.idword = s.idword := rfl
@[simp] theorem State.clearForEncrypt_outlen : s.clearForEncrypt.outlen = 0 := rfl
@[simp] theorem State.clearForEncrypt_key : s.clearForEncrypt.key = s.key := rfl
@[simp] theorem State.clearForEncrypt_iblk : s.clearForEncrypt.iblk = s.iblk := rfl
@[simp] theorem State.clearForEncrypt_oblk : s.clearForEncrypt.oblk = s.oblk := rfl
@[simp] theorem State.clearForEncrypt_i : s.clearForEncrypt.i = s.i := rfl
@[simp] theorem State.clearForEncrypt_nblk : s.clearForEncrypt.nblk = s.nblk := rfl
@[simp] theorem State.clearForEncrypt_ct : s.clearForEncrypt.ct = s.ct := rfl
@[simp] theorem State.clearForEncrypt_ob : s.clearForEncrypt.ob = s.ob := rfl
@[simp] theorem State.clearForEncrypt_ctxReady : s.clearForEncrypt.ctxReady = s.ctxReady := rfl
@[simp] theorem State.clearForEncrypt_resets : s.clearForEncrypt.resets = s.resets := rfl
@[simp] theorem State.clearForEncrypt_schedule : s.clearForEncrypt.schedule = s.schedule := rfl
@[simp] theorem State.clearForEncrypt_history : s.clearForEncrypt.history = s.history := rfl
@[simp] theorem State.clearForEncrypt_replies : s.clearForEncrypt.replies = s.replies := rfl

/-! The illegal-command rule (R146). -/

@[simp] theorem State.cmdError_state : s.cmdError.state = s.state := rfl
@[simp] theorem State.cmdError_ph : s.cmdError.ph = s.ph := rfl
@[simp] theorem State.cmdError_err : s.cmdError.err = s.err := rfl
@[simp] theorem State.cmdError_cmderr : s.cmdError.cmderr = true := rfl
@[simp] theorem State.cmdError_index : s.cmdError.index = s.index := rfl
@[simp] theorem State.cmdError_len : s.cmdError.len = s.len := rfl
@[simp] theorem State.cmdError_idword : s.cmdError.idword = s.idword := rfl
@[simp] theorem State.cmdError_outlen : s.cmdError.outlen = s.outlen := rfl
@[simp] theorem State.cmdError_key : s.cmdError.key = s.key := rfl
@[simp] theorem State.cmdError_iblk : s.cmdError.iblk = s.iblk := rfl
@[simp] theorem State.cmdError_oblk : s.cmdError.oblk = s.oblk := rfl
@[simp] theorem State.cmdError_i : s.cmdError.i = s.i := rfl
@[simp] theorem State.cmdError_nblk : s.cmdError.nblk = s.nblk := rfl
@[simp] theorem State.cmdError_ct : s.cmdError.ct = s.ct := rfl
@[simp] theorem State.cmdError_ob : s.cmdError.ob = s.ob := rfl
@[simp] theorem State.cmdError_ctxReady : s.cmdError.ctxReady = s.ctxReady := rfl
@[simp] theorem State.cmdError_resets : s.cmdError.resets = s.resets := rfl
@[simp] theorem State.cmdError_schedule : s.cmdError.schedule = s.schedule := rfl
@[simp] theorem State.cmdError_history : s.cmdError.history = s.history := rfl
@[simp] theorem State.cmdError_replies : s.cmdError.replies = s.replies := rfl

/-! The port history (R24). -/

@[simp] theorem State.record_state (e : PortEvent) : (s.record e).state = s.state := rfl
@[simp] theorem State.record_ph (e : PortEvent) : (s.record e).ph = s.ph := rfl
@[simp] theorem State.record_err (e : PortEvent) : (s.record e).err = s.err := rfl
@[simp] theorem State.record_cmderr (e : PortEvent) : (s.record e).cmderr = s.cmderr := rfl
@[simp] theorem State.record_index (e : PortEvent) : (s.record e).index = s.index := rfl
@[simp] theorem State.record_len (e : PortEvent) : (s.record e).len = s.len := rfl
@[simp] theorem State.record_idword (e : PortEvent) : (s.record e).idword = s.idword := rfl
@[simp] theorem State.record_outlen (e : PortEvent) : (s.record e).outlen = s.outlen := rfl
@[simp] theorem State.record_key (e : PortEvent) : (s.record e).key = s.key := rfl
@[simp] theorem State.record_iblk (e : PortEvent) : (s.record e).iblk = s.iblk := rfl
@[simp] theorem State.record_oblk (e : PortEvent) : (s.record e).oblk = s.oblk := rfl
@[simp] theorem State.record_i (e : PortEvent) : (s.record e).i = s.i := rfl
@[simp] theorem State.record_nblk (e : PortEvent) : (s.record e).nblk = s.nblk := rfl
@[simp] theorem State.record_ct (e : PortEvent) : (s.record e).ct = s.ct := rfl
@[simp] theorem State.record_ob (e : PortEvent) : (s.record e).ob = s.ob := rfl
@[simp] theorem State.record_ctxReady (e : PortEvent) : (s.record e).ctxReady = s.ctxReady := rfl
@[simp] theorem State.record_resets (e : PortEvent) : (s.record e).resets = s.resets := rfl
@[simp] theorem State.record_schedule (e : PortEvent) : (s.record e).schedule = s.schedule := rfl
@[simp] theorem State.record_history (e : PortEvent) : (s.record e).history = s.history ++ [e] := rfl
@[simp] theorem State.record_replies (e : PortEvent) : (s.record e).replies = s.replies := rfl

/-! The record of replies (R44). -/

@[simp] theorem State.reply_state (r : HostReply) : (s.reply r).state = s.state := rfl
@[simp] theorem State.reply_ph (r : HostReply) : (s.reply r).ph = s.ph := rfl
@[simp] theorem State.reply_err (r : HostReply) : (s.reply r).err = s.err := rfl
@[simp] theorem State.reply_cmderr (r : HostReply) : (s.reply r).cmderr = s.cmderr := rfl
@[simp] theorem State.reply_index (r : HostReply) : (s.reply r).index = s.index := rfl
@[simp] theorem State.reply_len (r : HostReply) : (s.reply r).len = s.len := rfl
@[simp] theorem State.reply_idword (r : HostReply) : (s.reply r).idword = s.idword := rfl
@[simp] theorem State.reply_outlen (r : HostReply) : (s.reply r).outlen = s.outlen := rfl
@[simp] theorem State.reply_key (r : HostReply) : (s.reply r).key = s.key := rfl
@[simp] theorem State.reply_iblk (r : HostReply) : (s.reply r).iblk = s.iblk := rfl
@[simp] theorem State.reply_oblk (r : HostReply) : (s.reply r).oblk = s.oblk := rfl
@[simp] theorem State.reply_i (r : HostReply) : (s.reply r).i = s.i := rfl
@[simp] theorem State.reply_nblk (r : HostReply) : (s.reply r).nblk = s.nblk := rfl
@[simp] theorem State.reply_ct (r : HostReply) : (s.reply r).ct = s.ct := rfl
@[simp] theorem State.reply_ob (r : HostReply) : (s.reply r).ob = s.ob := rfl
@[simp] theorem State.reply_ctxReady (r : HostReply) : (s.reply r).ctxReady = s.ctxReady := rfl
@[simp] theorem State.reply_resets (r : HostReply) : (s.reply r).resets = s.resets := rfl
@[simp] theorem State.reply_schedule (r : HostReply) : (s.reply r).schedule = s.schedule := rfl
@[simp] theorem State.reply_history (r : HostReply) : (s.reply r).history = s.history := rfl
@[simp] theorem State.reply_replies (r : HostReply) : (s.reply r).replies = s.replies ++ [r] := rfl

/-! A host write of a cleartext byte (R42). -/

@[simp] theorem State.writeCt_state (a : Nat) (v : Byte) : (s.writeCt a v).state = s.state := rfl
@[simp] theorem State.writeCt_ph (a : Nat) (v : Byte) : (s.writeCt a v).ph = s.ph := rfl
@[simp] theorem State.writeCt_err (a : Nat) (v : Byte) : (s.writeCt a v).err = s.err := rfl
@[simp] theorem State.writeCt_cmderr (a : Nat) (v : Byte) : (s.writeCt a v).cmderr = s.cmderr := rfl
@[simp] theorem State.writeCt_index (a : Nat) (v : Byte) : (s.writeCt a v).index = s.index := rfl
@[simp] theorem State.writeCt_len (a : Nat) (v : Byte) : (s.writeCt a v).len = s.len := rfl
@[simp] theorem State.writeCt_idword (a : Nat) (v : Byte) : (s.writeCt a v).idword = s.idword := rfl
@[simp] theorem State.writeCt_outlen (a : Nat) (v : Byte) : (s.writeCt a v).outlen = s.outlen := rfl
@[simp] theorem State.writeCt_key (a : Nat) (v : Byte) : (s.writeCt a v).key = s.key := rfl
@[simp] theorem State.writeCt_iblk (a : Nat) (v : Byte) : (s.writeCt a v).iblk = s.iblk := rfl
@[simp] theorem State.writeCt_oblk (a : Nat) (v : Byte) : (s.writeCt a v).oblk = s.oblk := rfl
@[simp] theorem State.writeCt_i (a : Nat) (v : Byte) : (s.writeCt a v).i = s.i := rfl
@[simp] theorem State.writeCt_nblk (a : Nat) (v : Byte) : (s.writeCt a v).nblk = s.nblk := rfl
@[simp] theorem State.writeCt_ct (a : Nat) (v : Byte) : (s.writeCt a v).ct = s.ct.set a v := rfl
@[simp] theorem State.writeCt_ob (a : Nat) (v : Byte) : (s.writeCt a v).ob = s.ob := rfl
@[simp] theorem State.writeCt_ctxReady (a : Nat) (v : Byte) : (s.writeCt a v).ctxReady = s.ctxReady := rfl
@[simp] theorem State.writeCt_resets (a : Nat) (v : Byte) : (s.writeCt a v).resets = s.resets := rfl
@[simp] theorem State.writeCt_schedule (a : Nat) (v : Byte) : (s.writeCt a v).schedule = s.schedule := rfl
@[simp] theorem State.writeCt_history (a : Nat) (v : Byte) : (s.writeCt a v).history = s.history := rfl
@[simp] theorem State.writeCt_replies (a : Nat) (v : Byte) : (s.writeCt a v).replies = s.replies := rfl

/-! The append of a ciphertext block (R121). -/

@[simp] theorem State.writeOb_state (a : Nat) (b : Block) : (s.writeOb a b).state = s.state := rfl
@[simp] theorem State.writeOb_ph (a : Nat) (b : Block) : (s.writeOb a b).ph = s.ph := rfl
@[simp] theorem State.writeOb_err (a : Nat) (b : Block) : (s.writeOb a b).err = s.err := rfl
@[simp] theorem State.writeOb_cmderr (a : Nat) (b : Block) : (s.writeOb a b).cmderr = s.cmderr := rfl
@[simp] theorem State.writeOb_index (a : Nat) (b : Block) : (s.writeOb a b).index = s.index := rfl
@[simp] theorem State.writeOb_len (a : Nat) (b : Block) : (s.writeOb a b).len = s.len := rfl
@[simp] theorem State.writeOb_idword (a : Nat) (b : Block) : (s.writeOb a b).idword = s.idword := rfl
@[simp] theorem State.writeOb_outlen (a : Nat) (b : Block) : (s.writeOb a b).outlen = s.outlen := rfl
@[simp] theorem State.writeOb_key (a : Nat) (b : Block) : (s.writeOb a b).key = s.key := rfl
@[simp] theorem State.writeOb_iblk (a : Nat) (b : Block) : (s.writeOb a b).iblk = s.iblk := rfl
@[simp] theorem State.writeOb_oblk (a : Nat) (b : Block) : (s.writeOb a b).oblk = s.oblk := rfl
@[simp] theorem State.writeOb_i (a : Nat) (b : Block) : (s.writeOb a b).i = s.i := rfl
@[simp] theorem State.writeOb_nblk (a : Nat) (b : Block) : (s.writeOb a b).nblk = s.nblk := rfl
@[simp] theorem State.writeOb_ct (a : Nat) (b : Block) : (s.writeOb a b).ct = s.ct := rfl
@[simp] theorem State.writeOb_ob (a : Nat) (b : Block) : (s.writeOb a b).ob = s.ob.write a b.toList := rfl
@[simp] theorem State.writeOb_ctxReady (a : Nat) (b : Block) : (s.writeOb a b).ctxReady = s.ctxReady := rfl
@[simp] theorem State.writeOb_resets (a : Nat) (b : Block) : (s.writeOb a b).resets = s.resets := rfl
@[simp] theorem State.writeOb_schedule (a : Nat) (b : Block) : (s.writeOb a b).schedule = s.schedule := rfl
@[simp] theorem State.writeOb_history (a : Nat) (b : Block) : (s.writeOb a b).history = s.history := rfl
@[simp] theorem State.writeOb_replies (a : Nat) (b : Block) : (s.writeOb a b).replies = s.replies := rfl

/-! The allocation (R104). -/

@[simp] theorem State.alloc_state : s.alloc.state = if BitVec.ofNat 16 (ceil16 s.length) = 0 then .done else .encrypting := rfl
@[simp] theorem State.alloc_ph : s.alloc.ph = s.ph := rfl
@[simp] theorem State.alloc_err : s.alloc.err = s.err := rfl
@[simp] theorem State.alloc_cmderr : s.alloc.cmderr = s.cmderr := rfl
@[simp] theorem State.alloc_index : s.alloc.index = s.index := rfl
@[simp] theorem State.alloc_len : s.alloc.len = s.len := rfl
@[simp] theorem State.alloc_idword : s.alloc.idword = s.idword := rfl
@[simp] theorem State.alloc_outlen : s.alloc.outlen = 0 := rfl
@[simp] theorem State.alloc_key : s.alloc.key = s.key := rfl
@[simp] theorem State.alloc_iblk : s.alloc.iblk = s.iblk := rfl
@[simp] theorem State.alloc_oblk : s.alloc.oblk = s.oblk := rfl
@[simp] theorem State.alloc_i : s.alloc.i = 0 := rfl
@[simp] theorem State.alloc_nblk : s.alloc.nblk = BitVec.ofNat 16 (ceil16 s.length) := rfl
@[simp] theorem State.alloc_ct : s.alloc.ct = s.ct := rfl
@[simp] theorem State.alloc_ob : s.alloc.ob = s.ob := rfl
@[simp] theorem State.alloc_ctxReady : s.alloc.ctxReady = s.ctxReady := rfl
@[simp] theorem State.alloc_resets : s.alloc.resets = s.resets := rfl
@[simp] theorem State.alloc_schedule : s.alloc.schedule = s.schedule := rfl
@[simp] theorem State.alloc_history : s.alloc.history = s.history := rfl
@[simp] theorem State.alloc_replies : s.alloc.replies = s.replies := rfl

/-! The reset event (R160). -/

@[simp] theorem State.resetEvent_state : s.resetEvent.state = .idle := rfl
@[simp] theorem State.resetEvent_ph : s.resetEvent.ph = false := rfl
@[simp] theorem State.resetEvent_err : s.resetEvent.err = none := rfl
@[simp] theorem State.resetEvent_cmderr : s.resetEvent.cmderr = false := rfl
@[simp] theorem State.resetEvent_index : s.resetEvent.index = 0 := rfl
@[simp] theorem State.resetEvent_len : s.resetEvent.len = 0 := rfl
@[simp] theorem State.resetEvent_idword : s.resetEvent.idword = 0 := rfl
@[simp] theorem State.resetEvent_outlen : s.resetEvent.outlen = 0 := rfl
@[simp] theorem State.resetEvent_key : s.resetEvent.key = Block.zeros := rfl
@[simp] theorem State.resetEvent_iblk : s.resetEvent.iblk = Block.zeros := rfl
@[simp] theorem State.resetEvent_oblk : s.resetEvent.oblk = Block.zeros := rfl
@[simp] theorem State.resetEvent_i : s.resetEvent.i = 0 := rfl
@[simp] theorem State.resetEvent_nblk : s.resetEvent.nblk = 0 := rfl
@[simp] theorem State.resetEvent_ct : s.resetEvent.ct = [] := rfl
@[simp] theorem State.resetEvent_ob : s.resetEvent.ob = [] := rfl
@[simp] theorem State.resetEvent_ctxReady : s.resetEvent.ctxReady = s.ctxReady := rfl
@[simp] theorem State.resetEvent_resets : s.resetEvent.resets = s.resets + 1 := rfl
@[simp] theorem State.resetEvent_schedule : s.resetEvent.schedule = s.schedule := rfl
@[simp] theorem State.resetEvent_history : s.resetEvent.history = s.history := rfl
@[simp] theorem State.resetEvent_replies : s.resetEvent.replies = s.replies := rfl

/-! Taking the next move out of store. -/

@[simp] theorem State.pop_state : s.pop.state = s.state := rfl
@[simp] theorem State.pop_ph : s.pop.ph = s.ph := rfl
@[simp] theorem State.pop_err : s.pop.err = s.err := rfl
@[simp] theorem State.pop_cmderr : s.pop.cmderr = s.cmderr := rfl
@[simp] theorem State.pop_index : s.pop.index = s.index := rfl
@[simp] theorem State.pop_len : s.pop.len = s.len := rfl
@[simp] theorem State.pop_idword : s.pop.idword = s.idword := rfl
@[simp] theorem State.pop_outlen : s.pop.outlen = s.outlen := rfl
@[simp] theorem State.pop_key : s.pop.key = s.key := rfl
@[simp] theorem State.pop_iblk : s.pop.iblk = s.iblk := rfl
@[simp] theorem State.pop_oblk : s.pop.oblk = s.oblk := rfl
@[simp] theorem State.pop_i : s.pop.i = s.i := rfl
@[simp] theorem State.pop_nblk : s.pop.nblk = s.nblk := rfl
@[simp] theorem State.pop_ct : s.pop.ct = s.ct := rfl
@[simp] theorem State.pop_ob : s.pop.ob = s.ob := rfl
@[simp] theorem State.pop_ctxReady : s.pop.ctxReady = s.ctxReady := rfl
@[simp] theorem State.pop_resets : s.pop.resets = s.resets := rfl
@[simp] theorem State.pop_schedule : s.pop.schedule = s.schedule.tail := rfl
@[simp] theorem State.pop_history : s.pop.history = s.history := rfl
@[simp] theorem State.pop_replies : s.pop.replies = s.replies := rfl

end Sys2Proof.Machine
end

