-- ==== Sys2Proof/Laws/Memory.lean ====
section
/-! SUPPORT. The laws of the buffers: read after write, writes elsewhere, the canonical form, and the bounds. -/

namespace Sys2Proof.Machine

open Sys2Proof

/-- A read of the written address gives the written byte. -/
@[simp] theorem Memory.get_set_same (m : Memory) (a : Nat) (v : Byte) : (m.set a v).get a = some v := by
  induction m with
  | nil => simp [Memory.set, Memory.get]
  | cons e m ih =>
    obtain ⟨b, w⟩ := e
    simp only [Memory.set]
    split
    · simp [Memory.get, ih]; omega
    · split <;> simp [Memory.get]

/-- A write leaves every other address alone. -/
theorem Memory.get_set_other (m : Memory) {a x : Nat} (v : Byte) (h : x ≠ a) : (m.set a v).get x = m.get x := by
  induction m with
  | nil => simp [Memory.set, Memory.get, Ne.symm h]
  | cons e m ih =>
    obtain ⟨b, w⟩ := e
    simp only [Memory.set]
    split
    · simp [Memory.get, ih]
    · split
      · next _ hb => subst hb; simp [Memory.get, Ne.symm h]
      · simp [Memory.get, Ne.symm h]

/-- A write of a byte sequence leaves every address outside it alone. -/
theorem Memory.get_write_outside (l : List Byte) (m : Memory) {a x : Nat} (h : x < a ∨ a + l.length ≤ x) :
    (m.write a l).get x = m.get x := by
  induction l generalizing m a with
  | nil => rfl
  | cons b l ih =>
    simp only [List.length_cons] at h
    rw [Memory.write, ih _ (by omega), Memory.get_set_other _ _ (by omega)]

/-- A write of a byte sequence puts byte `k` at `a + k`. -/
theorem Memory.get_write_inside (l : List Byte) (m : Memory) (a k : Nat) (h : k < l.length) :
    (m.write a l).get (a + k) = some l[k] := by
  induction l generalizing m a k with
  | nil => simp at h
  | cons b l ih =>
    cases k with
    | zero => rw [Memory.write, Memory.get_write_outside _ _ (by omega)]; simp
    | succ k => rw [Memory.write, show a + (k + 1) = (a + 1) + k by omega, ih]; rfl

/-- What a write of one byte lists. -/
theorem Memory.mem_set {m : Memory} {a : Nat} {v : Byte} {e : Host.Cell} (h : e ∈ m.set a v) : e = (a, v) ∨ e ∈ m := by
  induction m with
  | nil => simpa [Memory.set] using h
  | cons d m ih =>
    obtain ⟨b, w⟩ := d
    simp only [Memory.set] at h
    split at h
    · rcases List.mem_cons.1 h with h | h
      · exact .inr (by simp [h])
      · rcases ih h with h | h <;> simp [h]
    · split at h <;> rcases List.mem_cons.1 h with h | h <;> simp_all

/-- What a write of a byte sequence lists lies in what was listed or at the addresses written. -/
theorem Memory.mem_write {l : List Byte} {m : Memory} {a : Nat} {e : Host.Cell} (h : e ∈ m.write a l) :
    e ∈ m ∨ (a ≤ e.1 ∧ e.1 < a + l.length) := by
  induction l generalizing m a with
  | nil => exact .inl h
  | cons b l ih =>
    simp only [List.length_cons]
    rcases ih h with h | h
    · rcases Memory.mem_set h with h | h
      · right; rw [h]; simp only; omega
      · exact .inl h
    · right; omega

/-- A write of one byte keeps the canonical form. -/
theorem Memory.wf_set {m : Memory} (h : m.wf) (a : Nat) (v : Byte) : (m.set a v).wf := by
  refine ⟨?_, by simp [Memory.unlisted]⟩
  replace h := h.1
  induction m with
  | nil => simp [Memory.set]
  | cons e m ih =>
    obtain ⟨b, w⟩ := e
    obtain ⟨h₁, h₂⟩ := List.pairwise_cons.1 h
    simp only [Memory.set]
    split
    · refine List.pairwise_cons.2 ⟨fun f hf => ?_, ih h₂⟩
      rcases Memory.mem_set hf with hf | hf
      · simpa [hf]
      · exact h₁ f hf
    · split
      · next _ hb => subst hb; exact List.pairwise_cons.2 ⟨h₁, h₂⟩
      · refine List.pairwise_cons.2 ⟨fun f hf => ?_, h⟩
        rcases List.mem_cons.1 hf with hf | hf
        · subst hf; simp only; omega
        · have := h₁ f hf; simp only at this ⊢; omega

/-- A write of a byte sequence keeps the canonical form. -/
theorem Memory.wf_write {m : Memory} (h : m.wf) (a : Nat) (l : List Byte) : (m.write a l).wf := by
  induction l generalizing m a with
  | nil => exact h
  | cons b l ih => exact ih (Memory.wf_set h a b) (a + 1)

/-- The empty memory is in canonical form. -/
theorem Memory.wf_nil : Memory.wf [] := ⟨List.Pairwise.nil, by simp⟩

/-- What the reads of the buffers depend on. -/
theorem State.ctByte_congr {c : Config} {s t : State} (hct : t.ct = s.ct) (hr : t.resets = s.resets) :
    t.ctByte c = s.ctByte c := by
  funext a; simp [State.ctByte, hct, hr]

theorem State.obByte_congr {c : Config} {s t : State} (hob : t.ob = s.ob) (hr : t.resets = s.resets) :
    t.obByte c = s.obByte c := by
  funext a; simp [State.obByte, hob, hr]

/-- A cleartext byte the host wrote reads as written; the others as before. -/
theorem State.ctByte_writeCt (c : Config) (s : State) (a : Nat) (v : Byte) (x : Nat) :
    (s.writeCt a v).ctByte c x = if x = a then v else s.ctByte c x := by
  by_cases h : x = a
  · subst h; simp [State.ctByte]
  · simp [State.ctByte, Memory.get_set_other _ _ h, h]

/-- Byte `k` of an appended block. -/
theorem State.obByte_writeOb_inside (c : Config) (s : State) (a : Nat) (b : Block) (k : Fin 16) :
    (s.writeOb a b).obByte c (a + k.val) = b[k] := by
  simp [State.obByte, Memory.get_write_inside b.toList s.ob a k.val (by simp)]

/-- The bytes outside an appended block. -/
theorem State.obByte_writeOb_outside (c : Config) (s : State) (a : Nat) (b : Block) {x : Nat}
    (h : x < a ∨ a + 16 ≤ x) : (s.writeOb a b).obByte c x = s.obByte c x := by
  simp [State.obByte, Memory.get_write_outside b.toList s.ob (a := a) (x := x) (by simpa using h)]

/-- The range check holds exactly where every address exists. -/
theorem inBuffer_iff (c : Config) (a n : Nat) : inBuffer c a n = true ↔ n = 0 ∨ a + n ≤ c.cap := by
  simp [inBuffer]

end Sys2Proof.Machine
end

