-- ==== Sys2Proof/Laws/Operands.lean ====
section
/-! SUPPORT. The laws of the operand forms and of the parameters: `CAP`, the block count, the window, the padded block,
the identifier's bytes. -/

namespace Sys2Proof.Machine

open Sys2Proof

/-- `CAP` is at least one block (R6). -/
theorem cap_ge (c : Config) : 16 ≤ c.cap := by simp [Config.cap]

/-- `CAP` is at most 65536 (R6). -/
theorem cap_le (c : Config) : c.cap ≤ 65536 := by have := c.capBlocks.isLt; simp only [Config.cap]; omega

/-- `CAP` is a multiple of 16 (R6). -/
theorem cap_mod (c : Config) : c.cap % 16 = 0 := by simp only [Config.cap]; omega

/-- The padded length of a cleartext that fits fits as well (R101). -/
theorem ceil16_fits {c : Config} {L : Nat} (h : L ≤ c.cap) : 16 * ceil16 L ≤ c.cap := by
  have := cap_mod c; simp only [ceil16]; omega

/-- The block count of a cleartext that fits (R22). -/
theorem ceil16_le {c : Config} {L : Nat} (h : L ≤ c.cap) : ceil16 L ≤ 4096 := by
  have := cap_le c; have := ceil16_fits h; omega

/-- The block count lies in the 16-bit register `NBLK` unchanged (R104: "exact, no wrap"). -/
theorem toNat_nblk {c : Config} {L : Nat} (h : L ≤ c.cap) : (BitVec.ofNat 16 (ceil16 L)).toNat = ceil16 L := by
  have := ceil16_le h; simp; omega

/-- A window of a block that exists has 1 to 16 bytes (R105). -/
theorem avail_bounds {L i : Nat} (h : i < ceil16 L) : 1 ≤ avail L i ∧ avail L i ≤ 16 := by
  simp only [ceil16] at h; simp only [avail]; omega

/-- A window of a block that exists ends at or below the cleartext's end (R54). -/
theorem window_end {L i : Nat} (h : i < ceil16 L) : 16 * i + avail L i ≤ L := by
  simp only [ceil16] at h; simp only [avail]; omega

@[simp] theorem memRead_length (read : Nat → Byte) (a n : Nat) : (memRead read a n).length = n := by simp [memRead]

@[simp] theorem memRead_getElem (read : Nat → Byte) (a n k : Nat) (h : k < (memRead read a n).length) :
    (memRead read a n)[k] = read (a + k) := by simp [memRead]

/-- A memory read depends only on the addresses read. -/
theorem memRead_congr {f g : Nat → Byte} {a n : Nat} (h : ∀ k < n, f (a + k) = g (a + k)) :
    memRead f a n = memRead g a n := by
  simp only [memRead]
  exact List.map_congr_left fun k hk => h k (List.mem_range.1 hk)

/-- A read of `m + n` bytes is a read of `m` and one of the next `n`. -/
theorem memRead_append (f : Nat → Byte) (a m n : Nat) : memRead f a (m + n) = memRead f a m ++ memRead f (a + m) n := by
  simp [memRead, List.range_add, Nat.add_assoc]

/-- The 16 bytes of a block that lies at an address. -/
theorem memRead_block {f : Nat → Byte} {a : Nat} {b : Block} (h : ∀ k : Fin 16, f (a + k.val) = b[k]) :
    memRead f a 16 = b.toList := by
  refine List.ext_getElem (by simp) fun k h₁ h₂ => ?_
  have hk : k < 16 := by simpa using h₁
  simpa using h ⟨k, hk⟩

/-- Byte `j` of a padded block (R106). -/
theorem padWindow_getElem (z : Bool) (w : List Byte) (j : Fin 16) :
    (padWindow z w)[j] = if j.val < ncopy z w then w.getD j.val 0 else 0 := by
  simp [padWindow]

/-- The number of bytes copied is at most the window's length (R106). -/
theorem ncopy_le (z : Bool) (w : List Byte) : ncopy z w ≤ w.length := by
  cases z
  · exact Nat.le_refl _
  · exact List.findIdx_le_length

/-- The index rule on a 32-bit word read as a number (R91). -/
theorem idx_toInt (w : Word) : (idx w.toInt).val = if w.toNat ≤ 3 then w.toNat else 0 := by
  simp only [idx, BitVec.toInt]
  have := w.isLt
  split <;> split <;> split <;> simp_all <;> omega

/-- `MemRead` of the cleartext and the window function are the same bytes (R105, R107). -/
theorem padWindow_memRead (z : Bool) (f : Nat → Byte) (L i : Nat) :
    padWindow z (memRead f (16 * i) (avail L i)) = padblock z f L i := rfl

/-- `padblock` depends only on its window (R106 fact 2). -/
theorem padblock_congr {z : Bool} {f g : Nat → Byte} {L i : Nat}
    (h : ∀ k < avail L i, f (16 * i + k) = g (16 * i + k)) : padblock z f L i = padblock z g L i := by
  simp only [padblock, win, memRead_congr h]

end Sys2Proof.Machine
end

