-- ==== Sys2Proof/Laws/Instructions.lean ====
section
/-! SUPPORT. One lemma per instruction and case: what `exec` answers, as an equation on states. Later proofs cite these
and do not unfold a meaning. -/

namespace Sys2Proof.Machine

open Sys2Proof

variable {s : State}

/-- A state is busy exactly in the three states of R14. -/
theorem State.busy_iff : s.busy = true ↔ s.state = .ctxcheck ∨ s.state = .derive ∨ s.state = .encrypting := by
  simp only [State.busy]; cases s.state <;> simp [SeqState.busy]

theorem State.not_busy_iff : s.busy = false ↔ s.state = .idle ∨ s.state = .done ∨ s.state = .aborted := by
  simp only [State.busy]; cases s.state <;> simp [SeqState.busy]

/-- A response is owed exactly with a request outstanding (R120). -/
theorem State.owed_iff : s.owed = true ↔ s.state = .encrypting ∧ s.ph = true := by
  simp [State.owed]

theorem exec_getid (h : s.busy = false) : exec .getid s =
    .next { s.record (.idRead (idx s.signedIndex)) with
      idword := Config.hw.devid (idx s.signedIndex), cmderr := false } := by
  simp [exec, execGetid, getid, h, idRead]

theorem exec_getid_busy (h : s.busy = true) : exec .getid s = .next s := by
  simp [exec, execGetid, getid, h]

theorem exec_encrypt_accept (h : s.busy = false) (hl : s.length ≤ Config.hw.cap) :
    exec .encrypt s = .next { s.clearForEncrypt with state := .ctxcheck } := by
  simp [exec, execEncrypt, encrypt, h, Nat.not_lt.2 hl]

theorem exec_encrypt_refuse (h : s.busy = false) (hl : Config.hw.cap < s.length) :
    exec .encrypt s = .next (s.clearForEncrypt.abort .lengthRefused) := by
  simp [exec, execEncrypt, encrypt, h, hl]

theorem exec_encrypt_busy (h : s.busy = true) : exec .encrypt s = .next s := by
  simp [exec, execEncrypt, encrypt, h]

theorem exec_ctxchk_ready (h : s.state = .ctxcheck) (hp : s.ph = false) (hc : s.ctxReady = true) :
    exec .ctxchk s = .next { s.record (.ctxSample true) with state := .derive } := by
  simp [exec, execCtxchk, ctxchk, h, hp, hc]

theorem exec_ctxchk_notReady (h : s.state = .ctxcheck) (hp : s.ph = false) (hc : s.ctxReady = false) :
    exec .ctxchk s = .next ((s.record (.ctxSample false)).abort .platformUnavailable) := by
  simp [exec, execCtxchk, ctxchk, h, hp, hc]

theorem exec_derive (h : s.state = .derive) (hp : s.ph = false) : exec .derive s =
    .next { (s.record (.idRead 0)).record (.idRead 1) with key := deriveKey Config.hw }.alloc := by
  simp [exec, execDerive, derive, h, hp]

theorem exec_build (h : s.state = .encrypting) (hp : s.ph = false)
    (hr : inBuffer Config.hw (16 * s.i.toNat) (avail s.length s.i.toNat) = true) : exec .build s =
    .next { s.record (.primRequest s.key
        (padblock Config.hw.zeroStop (s.ctByte Config.hw) s.length s.i.toNat)) with
      iblk := padblock Config.hw.zeroStop (s.ctByte Config.hw) s.length s.i.toNat
      oblk := Block.zeros
      ph := true } := by
  simp [exec, execBuild, build, h, hp, hr, padWindow_memRead]

theorem exec_build_fault (h : s.state = .encrypting) (hp : s.ph = false)
    (hr : inBuffer Config.hw (16 * s.i.toNat) (avail s.length s.i.toNat) = false) :
    exec .build s = .fault (.beyondBuffer .ct) := by
  simp [exec, execBuild, build, h, hp, hr]

/-- A micro-operation that is not enabled does not happen (R78). -/
theorem exec_ctxchk_disabled (h : ¬(s.state = .ctxcheck ∧ s.ph = false)) : exec .ctxchk s = .next s := by
  simp only [exec, execCtxchk, ctxchk, if_neg h]

theorem exec_derive_disabled (h : ¬(s.state = .derive ∧ s.ph = false)) : exec .derive s = .next s := by
  simp only [exec, execDerive, derive, if_neg h]

theorem exec_build_disabled (h : ¬(s.state = .encrypting ∧ s.ph = false)) : exec .build s = .next s := by
  simp only [exec, execBuild, build, if_neg h]

theorem exec_respOk (h : s.owed = true) (hr : inBuffer Config.hw (16 * s.i.toNat) 16 = true) : exec .respOk s =
    .next { (s.record (.primOk (Config.hw.e s.key s.iblk))).writeOb (16 * s.i.toNat) (Config.hw.e s.key s.iblk) with
      oblk := Config.hw.e s.key s.iblk
      outlen := s.outlen + 16
      ph := false
      i := s.i + 1
      state := if s.i + 1 = s.nblk then .done else .encrypting } := by
  simp [exec, execRespOk, respOk, h, hr]

theorem exec_respOk_fault (h : s.owed = true) (hr : inBuffer Config.hw (16 * s.i.toNat) 16 = false) :
    exec .respOk s = .fault (.beyondBuffer .ob) := by
  simp [exec, execRespOk, respOk, h, hr]

theorem exec_respOk_notOwed (h : s.owed = false) : exec .respOk s = .refused .responseNotOwed := by
  simp [exec, execRespOk, respOk, h]

theorem exec_respFail (h : s.owed = true) :
    exec .respFail s = .next ((s.record .primFail).abort .primitiveFailure) := by
  simp [exec, execRespFail, respFail, h]

theorem exec_respFail_notOwed (h : s.owed = false) : exec .respFail s = .refused .responseNotOwed := by
  simp [exec, execRespFail, respFail, h]

/-- The key that `DERIVE` writes is the low eight identifier bytes, twice (R93). -/
theorem deriveKey_getElem (c : Config) (j : Fin 16) : (deriveKey c)[j] = did c ⟨j.val % 8, by omega⟩ := by
  simp only [deriveKey, did, idRead, Fin.getElem_fin, Vector.getElem_ofFn]
  fin_cases j <;> simp

end Sys2Proof.Machine
end

