-- ==== Sys2Proof/Laws/Step.lean ====
section
/-! SUPPORT. What one step can do, said once: the dispatch of the sequencer, the host port, and `Effect`, which every
next state of a step satisfies. -/

namespace Sys2Proof.Machine

open Sys2Proof

variable {s t : State}

/-- The sequencer's dispatch on the state (R78). -/
theorem decodeSeq_none (s : State) : decodeSeq s.seq none =
    if s.ph = false then
      match s.state with
      | .ctxcheck => .ok .ctxchk
      | .derive => .ok .derive
      | .encrypting => .ok .build
      | .idle => .error .noMicroOperation
      | .done => .error .noMicroOperation
      | .aborted => .error .noMicroOperation
    else if s.state = .encrypting then .error .awaitingResponse
    else .error .noMicroOperation := by
  simp only [State.seq]
  cases s.state <;> cases s.ph <;> rfl

/-- A response finds a micro-operation exactly where one is owed (R120). -/
theorem decodeSeq_some (s : State) (ok : Bool) : decodeSeq s.seq (some ok) =
    if s.owed then (if ok then .ok .respOk else .ok .respFail) else .error .responseNotOwed := by
  rcases hs : s.state <;> rcases hp : s.ph <;> cases ok <;>
    simp [decodeSeq, State.seq, State.owed, SeqState.code, hs, hp]

theorem ctrlStep_ctxcheck (h : s.state = .ctxcheck) (hp : s.ph = false) : ctrlStep s = exec .ctxchk s := by
  simp [ctrlStep, decodeSeq_none, h, hp]

theorem ctrlStep_derive (h : s.state = .derive) (hp : s.ph = false) : ctrlStep s = exec .derive s := by
  simp [ctrlStep, decodeSeq_none, h, hp]

theorem ctrlStep_build (h : s.state = .encrypting) (hp : s.ph = false) : ctrlStep s = exec .build s := by
  simp [ctrlStep, decodeSeq_none, h, hp]

/-- Where no micro-operation is enabled, `CTRL` does nothing (R78). -/
theorem ctrlStep_idle (h : s.busy = false ∨ s.ph = true) : ctrlStep s = .next s := by
  simp only [ctrlStep, decodeSeq_none]
  rcases h with h | h
  · rcases State.not_busy_iff.1 h with h | h | h <;> cases s.ph <;> simp [h]
  · simp only [h, Bool.true_eq_false, if_false]
    by_cases hs : s.state = .encrypting <;> simp [hs]

theorem primStep_owed (h : s.owed = true) (ok : Bool) :
    primStep ok s = exec (if ok then .respOk else .respFail) s := by
  cases ok <;> simp [primStep, decodeSeq_some, h]

theorem primStep_notOwed (h : s.owed = false) (ok : Bool) : primStep ok s = .refused .responseNotOwed := by
  simp [primStep, decodeSeq_some, h]

/-- A command word is its two fields (R71). -/
theorem word_of_fields {v : Word} {k : Nat} (hk : k < 256) (h₀ : v.extractLsb' 8 24 = 0)
    (h₁ : v.extractLsb' 0 8 = BitVec.ofNat 8 k) : v = BitVec.ofNat 32 k := by
  have h₀ := congrArg BitVec.toNat h₀
  have h₁ := congrArg BitVec.toNat h₁
  have hv := v.isLt
  simp only [BitVec.extractLsb'_toNat, Nat.shiftRight_eq_div_pow, BitVec.toNat_ofNat, BitVec.ofNat_eq_ofNat] at h₀ h₁
  apply BitVec.eq_of_toNat_eq
  rw [BitVec.toNat_ofNat]
  omega

/-- The decoder reads `GETID` and `ENCRYPT` from their words only (R73, R74). -/
theorem decodeCmd_ok {v : Word} {i : Instr} (h : decodeCmd v = .ok i) :
    (i = .getid ∧ v = 1) ∨ (i = .encrypt ∧ v = 2) := by
  simp only [decodeCmd] at h
  split at h
  · cases h
  · next h₀ =>
    have h₀ : v.extractLsb' 8 24 = 0 := not_not.1 h₀
    split at h
    · next h₁ => left; cases h; exact ⟨rfl, word_of_fields (k := 1) (by decide) h₀ h₁⟩
    · split at h
      · next h₂ => right; cases h; exact ⟨rfl, word_of_fields (k := 2) (by decide) h₀ h₂⟩
      · cases h

theorem decodeCmd_getid : decodeCmd 1 = .ok .getid := by decide

theorem decodeCmd_encrypt : decodeCmd 2 = .ok .encrypt := by decide

@[simp] theorem regionOf_cmd (c : Config) : regionOf c 0 = .reg .cmd := by
  have h : (0 : Offset).toNat = 0 := rfl
  simp only [regionOf, h, ↓reduceIte]

/-- A byte of the `CT` aperture lies below `CAP` (R42). -/
theorem regionOf_ctByte {c : Config} {off : Offset} {a : Nat} (h : regionOf c off = .ctByte a) : a < c.cap := by
  simp only [regionOf] at h
  repeat' split at h
  all_goals try simp only [reduceCtorEq] at h
  rw [Region.ctByte.injEq] at h; omega

/-- A write while busy leaves the state as it is (R47). -/
theorem hostStep_write_busy (h : s.busy = true) (off : Offset) :
    (∀ v, hostStep (.write32 off v) s = .next s) ∧ (∀ v, hostStep (.write8 off v) s = .next s) := by
  simp [hostStep, hostWrite32, hostWrite8, h]

/-- Everything a step can do to the state `s` from which the move was taken out of store. -/
inductive Effect (s : State) : State → Prop where
  | nothing : Effect s s
  | reply (r : HostReply) : Effect s (s.reply r)
  | index (v : Word) (h : s.busy = false) : Effect s { s with index := v }
  | len (v : Word) (h : s.busy = false) : Effect s { s with len := v }
  | ctWrite (a : Nat) (v : Byte) (h : s.busy = false) (ha : a < Config.hw.cap) : Effect s (s.writeCt a v)
  | cmdError (h : s.busy = false) : Effect s s.cmdError
  | getid (h : s.busy = false) : Effect s { s.record (.idRead (idx s.signedIndex)) with
      idword := Config.hw.devid (idx s.signedIndex), cmderr := false }
  | accept (h : s.busy = false) (hl : s.length ≤ Config.hw.cap) : Effect s { s.clearForEncrypt with state := .ctxcheck }
  | refuse (h : s.busy = false) (hl : Config.hw.cap < s.length) : Effect s (s.clearForEncrypt.abort .lengthRefused)
  | ready (h : s.state = .ctxcheck) (hp : s.ph = false) (hc : s.ctxReady = true) :
      Effect s { s.record (.ctxSample true) with state := .derive }
  | notReady (h : s.state = .ctxcheck) (hp : s.ph = false) (hc : s.ctxReady = false) :
      Effect s ((s.record (.ctxSample false)).abort .platformUnavailable)
  | derive (h : s.state = .derive) (hp : s.ph = false) :
      Effect s { (s.record (.idRead 0)).record (.idRead 1) with key := deriveKey Config.hw }.alloc
  | build (h : s.state = .encrypting) (hp : s.ph = false) :
      Effect s { s.record (.primRequest s.key
          (padblock Config.hw.zeroStop (s.ctByte Config.hw) s.length s.i.toNat)) with
        iblk := padblock Config.hw.zeroStop (s.ctByte Config.hw) s.length s.i.toNat
        oblk := Block.zeros
        ph := true }
  | respOk (h : s.state = .encrypting) (hp : s.ph = true) (hr : 16 * s.i.toNat + 16 ≤ Config.hw.cap) :
      Effect s { (s.record (.primOk (Config.hw.e s.key s.iblk))).writeOb (16 * s.i.toNat) (Config.hw.e s.key s.iblk) with
        oblk := Config.hw.e s.key s.iblk
        outlen := s.outlen + 16
        ph := false
        i := s.i + 1
        state := if s.i + 1 = s.nblk then .done else .encrypting }
  | respFail (h : s.state = .encrypting) (hp : s.ph = true) :
      Effect s ((s.record .primFail).abort .primitiveFailure)
  | ctx (level : Bool) : Effect s { s with ctxReady := level }
  | reset : Effect s s.resetEvent

theorem offerCommand_effect (hb : s.busy = false) {v : Word} (h : offerCommand s v = .next t) : Effect s t := by
  simp only [offerCommand] at h
  split at h
  · next i hi =>
    rcases decodeCmd_ok hi with ⟨rfl, -⟩ | ⟨rfl, -⟩
    · rw [exec_getid hb] at h; cases h; exact .getid hb
    · by_cases hl : s.length ≤ Config.hw.cap
      · rw [exec_encrypt_accept hb hl] at h; cases h; exact .accept hb hl
      · rw [exec_encrypt_refuse hb (Nat.not_le.1 hl)] at h; cases h; exact .refuse hb (Nat.not_le.1 hl)
  · cases h; exact .cmdError hb

theorem hostStep_effect {x : HostTxn} (h : hostStep x s = .next t) : Effect s t := by
  cases x with
  | read32 off => cases h; exact .reply _
  | read8 off => cases h; exact .reply _
  | write32 off v =>
    by_cases hb : s.busy = true
    · rw [(hostStep_write_busy hb off).1] at h; cases h; exact .nothing
    · rw [Bool.not_eq_true] at hb
      simp only [hostStep, hostWrite32, hb, Bool.false_eq_true, if_false] at h
      split at h
      case h_1 => exact offerCommand_effect hb h
      case h_3 => cases h; exact .index v hb
      case h_4 => cases h; exact .len v hb
      all_goals cases h; exact .nothing
  | write8 off v =>
    by_cases hb : s.busy = true
    · rw [(hostStep_write_busy hb off).2] at h; cases h; exact .nothing
    · rw [Bool.not_eq_true] at hb
      simp only [hostStep, hostWrite8, hb, Bool.false_eq_true, if_false] at h
      cases h
      split
      case h_2 a ha => exact .ctWrite a v hb (regionOf_ctByte ha)
      all_goals exact .nothing

theorem ctrlStep_effect (h : ctrlStep s = .next t) : Effect s t := by
  by_cases hi : s.busy = false ∨ s.ph = true
  · rw [ctrlStep_idle hi] at h; cases h; exact .nothing
  · simp only [not_or, Bool.not_eq_false, Bool.not_eq_true] at hi
    obtain ⟨hb, hp⟩ := hi
    rcases State.busy_iff.1 hb with hs | hs | hs
    · rw [ctrlStep_ctxcheck hs hp] at h
      cases hc : s.ctxReady
      · rw [exec_ctxchk_notReady hs hp hc] at h; cases h; exact .notReady hs hp hc
      · rw [exec_ctxchk_ready hs hp hc] at h; cases h; exact .ready hs hp hc
    · rw [ctrlStep_derive hs hp, exec_derive hs hp] at h; cases h; exact .derive hs hp
    · rw [ctrlStep_build hs hp] at h
      cases hr : inBuffer Config.hw (16 * s.i.toNat) (avail s.length s.i.toNat)
      · rw [exec_build_fault hs hp hr] at h; cases h
      · rw [exec_build hs hp hr] at h; cases h; exact .build hs hp

theorem primStep_effect {ok : Bool} (h : primStep ok s = .next t) : Effect s t := by
  cases ho : s.owed
  · rw [primStep_notOwed ho] at h; cases h
  · obtain ⟨hs, hp⟩ := State.owed_iff.1 ho
    rw [primStep_owed ho] at h
    cases ok
    · rw [if_neg (by simp), exec_respFail ho] at h; cases h; exact .respFail hs hp
    · rw [if_pos rfl] at h
      cases hr : inBuffer Config.hw (16 * s.i.toNat) 16
      · rw [exec_respOk_fault ho hr] at h; cases h
      · rw [exec_respOk ho hr] at h; cases h
        exact .respOk hs hp (by simpa [inBuffer_iff] using hr)

/-- Every next state of a move is one of the effects above. -/
theorem perform_effect {m : Move} (h : perform m s = .next t) : Effect s t := by
  cases m with
  | host x => exact hostStep_effect h
  | ctrl => exact ctrlStep_effect h
  | prim ok => exact primStep_effect h
  | ctx level => cases h; exact .ctx level
  | reset => cases h; exact .reset

/-- Every next state of a step is one of the effects above. -/
theorem step_effect (h : step s = .next t) : Effect s.pop t := perform_effect h

/-- A step whose move is at the head of the store. -/
theorem step_cons {m : Move} {rest : List Move} (h : s.schedule = m :: rest) :
    step s = perform m { s with schedule := rest } := by
  simp [step, State.nextMove, State.pop, h]

/-- A step with nothing in store is `CTRL`'s. -/
theorem step_nil (h : s.schedule = []) : step s = ctrlStep s := by
  obtain ⟨⟩ := s
  simp only at h
  subst h
  rfl

end Sys2Proof.Machine
end

