-- ==== Sys2Proof/Laws/Run.lean ====
section
/-! SUPPORT. Runs of several steps, and what each offset of the host window is. -/

namespace Sys2Proof.Machine

open Sys2Proof

variable {s t : State}

@[simp] theorem run_zero (s : State) : Host.Core.run core 0 s = .next s := rfl

/-- A run whose first step goes on. -/
theorem run_next {k : Nat} (h : step s = .next t) : Host.Core.run core (k + 1) s = Host.Core.run core k t := by
  have h : core.step s = .next t := h
  simp only [Host.Core.run, h]

/-- A run of `k + l` steps is a run of `k` and one of `l`. -/
theorem run_add {k l : Nat} (h : Host.Core.run core k s = .next t) :
    Host.Core.run core (k + l) s = Host.Core.run core l t := by
  induction k generalizing s with
  | zero => cases h; simp
  | succ k ih =>
    cases hs : step s with
    | next u => rw [run_next hs] at h; rw [Nat.succ_add, run_next hs]; exact ih h
    | fault r => have hs : core.step s = .fault r := hs; simp [Host.Core.run, hs] at h
    | refused r => have hs : core.step s = .refused r := hs; simp [Host.Core.run, hs] at h

/-- A state that a step leaves as it is stays so. -/
theorem run_fixed (h : step s = .next s) (k : Nat) : Host.Core.run core k s = .next s := by
  induction k with
  | zero => rfl
  | succ k ih => rw [run_next h, ih]

/-- Above the register slot the map of the window is two aperture slots and nothing else (R41). -/
theorem regionOf_above_registers (c : Config) {off : Offset} (h : 0x10000 ≤ off.toNat) :
    regionOf c off =
      if off.toNat < 0x20000 then (if off.toNat - 0x10000 < c.cap then .ctByte (off.toNat - 0x10000) else .reserved)
      else if off.toNat < 0x30000 then
        (if off.toNat - 0x20000 < c.cap then .obByte (off.toNat - 0x20000) else .reserved)
      else .reserved := by
  have noReg : ∀ k < 0x10000, (off.toNat = k) = False := fun k hk => eq_false (by omega)
  have noLow : (off.toNat < 0x10000) = False := eq_false (by omega)
  simp (disch := decide) only [regionOf, noReg, noLow, if_false]

/-- The place of an offset in the `CT` slot of the window (R41). -/
theorem regionOf_ct_slot (c : Config) {off : Offset} (h₁ : 0x10000 ≤ off.toNat) (h₂ : off.toNat < 0x20000) :
    regionOf c off = if off.toNat - 0x10000 < c.cap then .ctByte (off.toNat - 0x10000) else .reserved :=
  (regionOf_above_registers c h₁).trans (if_pos h₂)

/-- The place of an offset in the `OB` slot of the window (R41). -/
theorem regionOf_ob_slot (c : Config) {off : Offset} (h₁ : 0x20000 ≤ off.toNat) (h₂ : off.toNat < 0x30000) :
    regionOf c off = if off.toNat - 0x20000 < c.cap then .obByte (off.toNat - 0x20000) else .reserved :=
  (regionOf_above_registers c (by omega)).trans ((if_neg (by omega)).trans (if_pos h₂))

/-- Byte `a` of the `CT` aperture (R41, R42). -/
theorem regionOf_ct {c : Config} {a : Nat} (h : a < c.cap) :
    regionOf c (BitVec.ofNat 18 (0x10000 + a)) = .ctByte a := by
  have := cap_le c
  have e : (BitVec.ofNat 18 (0x10000 + a)).toNat = 0x10000 + a := by simp only [BitVec.toNat_ofNat]; omega
  rw [regionOf_ct_slot c (by omega) (by omega), e, if_pos (by omega), Nat.add_sub_cancel_left]

/-- Byte `a` of the `OB` aperture (R41, R43). -/
theorem regionOf_ob {c : Config} {a : Nat} (h : a < c.cap) :
    regionOf c (BitVec.ofNat 18 (0x20000 + a)) = .obByte a := by
  have := cap_le c
  have e : (BitVec.ofNat 18 (0x20000 + a)).toNat = 0x20000 + a := by simp only [BitVec.toNat_ofNat]; omega
  rw [regionOf_ob_slot c (by omega) (by omega), e, if_pos (by omega), Nat.add_sub_cancel_left]

end Sys2Proof.Machine
end

