-- ==== Sys2Proof/Laws/HostProgram.lean ====
section
/-! SUPPORT. The turns of a host program: what a run of its turns is, and what one turn with nothing in between does. -/

namespace Sys2Proof.Machine

open Sys2Proof

variable {s t : State}

@[simp] theorem State.enqueue_schedule (s : State) (moves : List Move) :
    (s.enqueue moves).schedule = moves ++ s.schedule := rfl

@[simp] theorem State.enqueue_busy (s : State) (moves : List Move) : (s.enqueue moves).busy = s.busy := rfl

@[simp] theorem State.enqueue_status (s : State) (moves : List Move) : (s.enqueue moves).status = s.status := rfl

@[simp] theorem State.lastReply_reply (s : State) (r : HostReply) : (s.reply r).lastReply = some r := by
  simp [State.lastReply, State.reply]

@[simp] theorem hostRun_nil (p : List HostItem) (s : State) : hostRun [] p s = .next (p, s) := rfl

/-- A run of turns whose first goes on. -/
theorem hostRun_next {gap : List Move} {gaps : List (List Move)} {p q : List HostItem}
    (h : hostTurn gap p s = .next (q, t)) : hostRun (gap :: gaps) p s = hostRun gaps q t := by
  simp only [hostRun, h]

/-- A run of turns is a run of the first ones and one of the others. -/
theorem hostRun_append {g₁ g₂ : List (List Move)} {p q : List HostItem} (h : hostRun g₁ p s = .next (q, t)) :
    hostRun (g₁ ++ g₂) p s = hostRun g₂ q t := by
  induction g₁ generalizing p s with
  | nil => cases h; rfl
  | cons gap g₁ ih =>
    cases ht : hostTurn gap p s with
    | next r => obtain ⟨q', u⟩ := r; rw [hostRun_next ht] at h; rw [List.cons_append, hostRun_next ht]; exact ih h
    | fault f => simp [hostRun, ht] at h
    | refused r => simp [hostRun, ht] at h

/-- One turn is the run of its moves and its transaction. -/
theorem hostTurn_next {gap : List Move} {item : HostItem} {rest : List HostItem}
    (h : Host.Core.run core (gap.length + 1) (s.enqueue (gap ++ [.host item.nextLine.txn])) = .next t) :
    hostTurn gap (item :: rest) s = .next (item.after t.lastReply ++ rest, t) := by
  simp only [hostTurn, h]

/-- One turn with nothing in between is the host's transaction. -/
theorem hostTurn_noGap {item : HostItem} {rest : List HostItem} (h : hostStep item.nextLine.txn s = .next t) :
    hostTurn [] (item :: rest) s = .next (item.after t.lastReply ++ rest, t) := by
  refine hostTurn_next ?_
  have hs : step (s.enqueue [.host item.nextLine.txn]) = .next t := by
    rw [step_cons (m := .host item.nextLine.txn) (rest := s.schedule) rfl]; exact h
  rw [List.nil_append, List.length_nil, run_next hs]; rfl

end Sys2Proof.Machine
end

