-- ==== Sys2Proof/Laws/PerInstr.lean ====
section
/-! SUPPORT. What is said of every instruction as syntax, one lemma per constructor. -/

/-- The words of an instruction are its own: it is a well-formed term, its code word passes the checks of a code word,
and no other instruction has that code word (R70, R73, R78). -/
def Sys2Proof.Laws.Words.Statement (i : Sys2Proof.Instr) : Prop :=
  i.wellFormed = true ∧ (Sys2Proof.encode i).wellFormed = true ∧
    ∀ j : Sys2Proof.Instr, Sys2Proof.encode j = Sys2Proof.encode i → j = i

theorem Sys2Proof.Laws.Words.getid : Sys2Proof.Laws.Words.Statement .getid :=
  ⟨rfl, by decide, fun j => by cases j <;> decide⟩

theorem Sys2Proof.Laws.Words.encrypt : Sys2Proof.Laws.Words.Statement .encrypt :=
  ⟨rfl, by decide, fun j => by cases j <;> decide⟩

theorem Sys2Proof.Laws.Words.ctxchk : Sys2Proof.Laws.Words.Statement .ctxchk :=
  ⟨rfl, by decide, fun j => by cases j <;> decide⟩

theorem Sys2Proof.Laws.Words.derive : Sys2Proof.Laws.Words.Statement .derive :=
  ⟨rfl, by decide, fun j => by cases j <;> decide⟩

theorem Sys2Proof.Laws.Words.build : Sys2Proof.Laws.Words.Statement .build :=
  ⟨rfl, by decide, fun j => by cases j <;> decide⟩

theorem Sys2Proof.Laws.Words.respOk : Sys2Proof.Laws.Words.Statement .respOk :=
  ⟨rfl, by decide, fun j => by cases j <;> decide⟩

theorem Sys2Proof.Laws.Words.respFail : Sys2Proof.Laws.Words.Statement .respFail :=
  ⟨rfl, by decide, fun j => by cases j <;> decide⟩
end

