-- ==== Sys2Proof/Tests/Slice0.lean ====
section
/-! SUPPORT. The tests of the model: well-formedness smoke tests, decodings of words written out from the spec's
encodings, the spec's own vectors (95_test_vectors.md) on small states, and a witness for the hypotheses of each statement
of Certificates/Slice0/Obligations.lean. -/

namespace Sys2Proof.Tests

open Sys2Proof Sys2Proof.Machine

/-! ### The fixtures of 95_test_vectors.md -/

/-- `E_fix`, the fixture primitive (D33). -/
def eFix (k b : Block) : Block := Vector.ofFn fun j : Fin 16 => b[j] ^^^ k[j]

/-- `DEV_A` with `CAP = 4096` and `ZERO_STOP = false`. -/
def devA : Config where
  devid k := if k = 0 then 0x04030201 else if k = 1 then 0x08070605 else if k = 2 then 0x0C0B0A09 else 0x100F0E0D
  e := eFix
  zeroStop := false
  capBlocks := 255
  basePage := 0
  ctPowerOn _ _ := 0xA5
  obPowerOn _ _ := 0x5A

/-- `DEV_B` with the same parameters. -/
def devB : Config := { devA with
  devid := fun k => if k = 0 then 0x13579BDF else if k = 1 then 0x2468ACE0 else if k = 2 then 0xDEADBEEF else 0x0BADF00D }

/-- `CAP = 16`, the least capacity (R6). -/
def smallCap : Config := { devA with capBlocks := 0 }

/-- A 16-byte sequence from a list. -/
def block (l : List Byte) : Block := Vector.ofFn fun j : Fin 16 => l.getD j.val 0

/-- A buffer whose first bytes are listed. -/
def buffer (l : List Byte) : Memory := Memory.write [] 0 l

/-- A fact about the state that an outcome goes on to. -/
def goesOn (o : Host.Outcome State Fault Refusal) (p : State → Bool) : Bool :=
  match o with
  | .next s => p s
  | .fault _ => false
  | .refused _ => false

/-! ### Well-formedness: what the checks refuse -/

/-- IC5: a reserved bit beside a legal opcode. -/
theorem test_wf_reserved_bits : (CodeWord.cmd32 0x80000001).wellFormed = false := by decide

/-- IC1, IC2: the opcodes on either side of the legal ones. -/
theorem test_wf_illegal_opcode :
    (CodeWord.cmd32 0x00000000).wellFormed = false ∧ (CodeWord.cmd32 0x00000003).wellFormed = false := by decide

/-- No micro-operation in `IDLE`, `DONE`, `ABORTED`, nor at a word R78 never reaches. -/
theorem test_wf_no_microoperation :
    (CodeWord.seq4 0b0000 none).wellFormed = false ∧ (CodeWord.seq4 0b0100 none).wellFormed = false ∧
    (CodeWord.seq4 0b0101 none).wellFormed = false ∧ (CodeWord.seq4 0b1010 none).wellFormed = false := by decide

/-- A request outstanding, and no response. -/
theorem test_wf_awaits_response : (CodeWord.seq4 0b1011 none).wellFormed = false := by decide

/-- A response with no request outstanding. -/
theorem test_wf_response_not_owed : (CodeWord.seq4 0b0011 (some true)).wellFormed = false := by decide

/-! ### Decoding: words written out from R71, R73, R78 -/

theorem test_decode_getid : decode (.cmd32 (0x000000#24 ++ 0b00000001#8)) = .ok .getid := by decide
theorem test_decode_encrypt : decode (.cmd32 (0x000000#24 ++ 0b00000010#8)) = .ok .encrypt := by decide
/-- `{PH = 0, STATE = 1}`. -/
theorem test_decode_ctxchk : decode (.seq4 (0b0#1 ++ 0b001#3) none) = .ok .ctxchk := by decide
/-- `{PH = 0, STATE = 2}`. -/
theorem test_decode_derive : decode (.seq4 (0b0#1 ++ 0b010#3) none) = .ok .derive := by decide
/-- `{PH = 0, STATE = 3}`. -/
theorem test_decode_build : decode (.seq4 (0b0#1 ++ 0b011#3) none) = .ok .build := by decide
/-- `{PH = 1, STATE = 3}` and `ok = 1`. -/
theorem test_decode_respOk : decode (.seq4 (0b1#1 ++ 0b011#3) (some true)) = .ok .respOk := by decide
/-- `{PH = 1, STATE = 3}` and `ok = 0`. -/
theorem test_decode_respFail : decode (.seq4 (0b1#1 ++ 0b011#3) (some false)) = .ok .respFail := by decide

/-- IC4: `ENCRYPT`'s opcode with a reserved bit set is not `ENCRYPT`. -/
theorem test_decode_IC4 : decode (.cmd32 0x00000102) = .error .reservedBits := by decide

/-- The opcode table's words. The two arms of `RESP` have one word there (log entry 5). -/
theorem test_decodeTableWord :
    decodeTableWord 32 0x1 = some .getid ∧ decodeTableWord 32 0x2 = some .encrypt ∧
    decodeTableWord 8 0x1 = some .ctxchk ∧ decodeTableWord 8 0x2 = some .derive ∧ decodeTableWord 8 0x3 = some .build ∧
    decodeTableWord 8 0xB = some .respFail ∧ decodeTableWord 8 0x1B = some .respOk ∧
    decodeTableWord 32 0x102 = none ∧ decodeTableWord 8 0x0 = none := by decide

/-- A step of the reset state with a word of the table placed where it fetches runs that instruction. -/
theorem test_withFetchWord :
    step (State.reset.withFetchWord 32 0x1) = exec .getid State.reset ∧
    step (State.reset.withFetchWord 8 0x2) = exec .derive { State.reset with state := .derive } ∧
    step (State.reset.withFetchWord 8 0x1B) = exec .respOk { State.reset with state := .encrypting, ph := true } :=
  ⟨rfl, rfl, rfl⟩

/-- Every word of the table, placed so, gives a next state. -/
theorem test_withFetchWord_goes_on :
    ([(32, 0x1), (32, 0x2), (8, 0x1), (8, 0x2), (8, 0x3), (8, 0xB), (8, 0x1B)].all fun p =>
      goesOn (step (State.reset.withFetchWord p.1 p.2)) fun _ => true) = true := by decide

/-! ### Operand forms and flags -/

/-- K2. -/
theorem test_deriveKey_K2 : (deriveKey devB).toList =
    [0xDF, 0x9B, 0x57, 0x13, 0xE0, 0xAC, 0x68, 0x24, 0xDF, 0x9B, 0x57, 0x13, 0xE0, 0xAC, 0x68, 0x24] := by decide

/-- GI4, GI5, GI7, GI8, GI9: the index rule does not saturate. -/
theorem test_idx : idx 3 = 3 ∧ idx 4 = 0 ∧ idx (-1) = 0 ∧ idx (-2147483648) = 0 ∧ idx 2147483647 = 0 := by decide

/-- BC1 to BC8. -/
theorem test_ceil16 : ([0, 1, 15, 16, 17, 32, 33, 4096].map ceil16) = [0, 1, 1, 1, 2, 2, 3, 256] := by decide

/-- The cleartext of B9 and B10. -/
def textB9 (a : Nat) : Byte :=
  [0x61, 0x62, 0x63, 0x00, 0x65, 0x66, 0x67, 0x68, 0x69, 0x6A, 0x6B, 0x6C, 0x6D, 0x6E, 0x6F, 0x70, 0x71, 0x00, 0x73,
    0x74].getD a 0xEE

/-- B9 and B10 with `ZERO_STOP = false`. -/
theorem test_padblock_copyAll :
    padblock false textB9 20 0 = block [0x61, 0x62, 0x63, 0x00, 0x65, 0x66, 0x67, 0x68, 0x69, 0x6A, 0x6B, 0x6C, 0x6D,
      0x6E, 0x6F, 0x70] ∧
    padblock false textB9 20 1 = block [0x71, 0x00, 0x73, 0x74] := by decide

/-- B9 and B10 with `ZERO_STOP = true`: the stop is per window. -/
theorem test_padblock_zeroStop :
    padblock true textB9 20 0 = block [0x61, 0x62, 0x63] ∧ padblock true textB9 20 1 = block [0x71] := by decide

/-- IC7, F1, X1, LR1, and O4 after `BUILD`: words of `STATUS`. -/
theorem test_status :
    ({ State.reset with state := .aborted, err := some .primitiveFailure, cmderr := true } : State).status = 0x65 ∧
    ({ State.reset with state := .aborted, err := some .platformUnavailable } : State).status = 0x15 ∧
    ({ State.reset with state := .aborted, err := some .lengthRefused } : State).status = 0x35 ∧
    ({ State.reset with state := .encrypting, ph := true } : State).status = 0x8B := by decide

/-- R49, R79: byte 0 of the key is the lowest byte lane of a request, byte 0 of the plaintext block is bits 135 to 128. -/
theorem test_request_lanes :
    (packRequest (block [0xDF]) (block [0x41])).extractLsb' 0 8 = 0xDF ∧
    (packRequest (block [0xDF]) (block [0x41])).extractLsb' 128 8 = 0x41 := by decide +kernel

/-! ### The instructions -/

/-- GI7: `INDEX = -1` gives word 0, and one `IdRead(0)`. -/
theorem test_getid_GI7 : goesOn (getid devA { State.reset with index := 0xFFFFFFFF, cmderr := true }) (fun t =>
    t.idword == 0x04030201 && t.history == [.idRead 0] && t.status == 0x00) = true := by decide

/-- W3: while busy `GETID` is dropped. -/
theorem test_getid_busy :
    getid devB { State.reset with state := .derive } = .next { State.reset with state := .derive } := rfl

/-- LR1, LR2: `CAP = 16` refuses 17 bytes and accepts 16. -/
theorem test_encrypt_LR1_LR2 :
    goesOn (encrypt smallCap { State.reset with len := 17, cmderr := true }) (fun t => t.status == 0x35) = true ∧
    goesOn (encrypt smallCap { State.reset with len := 16, outlen := 32 }) (fun t =>
      t.status == 0x09 && t.outlen == 0) = true := by
  decide

/-- LR3: the length is unsigned. -/
theorem test_encrypt_LR3 : goesOn (encrypt devA { State.reset with len := 0xFFFFFFFF }) (fun t =>
    t.status == 0x35 && t.history == []) = true := by decide

/-- X1: the context is not ready. -/
theorem test_ctxchk_X1 : goesOn (ctxchk { State.reset with state := .ctxcheck, len := 40 }) (fun t =>
    t.status == 0x15 && t.history == [.ctxSample false]) = true := by decide

/-- O4 after `CTXCHK`. -/
theorem test_ctxchk_O4 : goesOn (ctxchk { State.reset with state := .ctxcheck, len := 17, ctxReady := true }) (fun t =>
    t.status == 0x0A && t.history == [.ctxSample true]) = true := by decide

/-- P2: `DERIVE` for 17 bytes. -/
theorem test_derive_P2 : goesOn (derive devB { State.reset with state := .derive, len := 17 }) (fun t =>
    t.status == 0x0B && t.nblk == 2 && t.history == [.idRead 0, .idRead 1] &&
    t.key == block [0xDF, 0x9B, 0x57, 0x13, 0xE0, 0xAC, 0x68, 0x24, 0xDF, 0x9B, 0x57, 0x13, 0xE0, 0xAC, 0x68, 0x24]) =
    true := by decide

/-- X3: a length of 0 is done at once. -/
theorem test_derive_X3 : goesOn (derive devB { State.reset with state := .derive }) (fun t =>
    t.status == 0x04 && t.nblk == 0) = true := by decide

/-- P2's `BUILD` of block 1: one byte of cleartext, `CT[16] = 51`. -/
theorem test_build_P2 : goesOn (build devB { State.reset with
      state := .encrypting, len := 17, i := 1, nblk := 2, ct := [(16, 0x51)] }) (fun t =>
    t.iblk == block [0x51] && t.oblk == Block.zeros && t.status == 0x8B &&
    t.history == [.primRequest Block.zeros (block [0x51])]) = true := by decide

/-- B5 with `ZERO_STOP = true`. -/
theorem test_build_B5 : goesOn (build { devB with zeroStop := true } { State.reset with
      state := .encrypting, len := 5, nblk := 1, ct := buffer [0x41, 0x00, 0x42, 0x43, 0x44] }) (fun t =>
    t.iblk == block [0x41]) = true := by decide

/-- P2's second `RESP`: 32 bytes, `DONE`, and the first and last byte of block 1 (T2). -/
theorem test_respOk_P2 : goesOn (respOk devB { State.reset with
      state := .encrypting, ph := true, i := 1, nblk := 2, outlen := 16, iblk := block [0x51], key := deriveKey devB })
    (fun t => t.status == 0x04 && t.outlen == 32 && t.i == 2 && t.obByte devB 16 == 0x8E && t.obByte devB 31 == 0x24 &&
      t.obByte devB 15 == 0x5A) = true := by decide

/-- T1: after the first of two responses the host reads no byte. -/
theorem test_respOk_T1 : goesOn (respOk devB { State.reset with
      state := .encrypting, ph := true, nblk := 2, iblk := block [0x41], key := deriveKey devB })
    (fun t => t.status == 0x0B && t.outlen == 16 && t.obByte devB 0 == 0x9E && hostRead8 devB t 0x20000 == 0) =
    true := by decide

/-- P3: the failing second response keeps `I` and the physical byte, and hides it. -/
theorem test_respFail_P3 : goesOn (respFail { State.reset with
      state := .encrypting, ph := true, i := 1, nblk := 3, outlen := 16, ob := [(0, 0xEF)] }) (fun t =>
    t.status == 0x25 && t.outlen == 0 && t.i == 1 && t.obByte devB 0 == 0xEF && hostRead8 devB t 0x20000 == 0) =
    true := by decide

/-- A stale response is refused (V9). -/
theorem test_respFail_notOwed : respFail State.reset = .refused .responseNotOwed := rfl

/-- UM1: reserved and misaligned places, and a word read of an aperture, read as zero; `CT` and a register do not. -/
theorem test_window_UM1 :
    ([0x00018, 0x00006, 0x10000].all fun off => hostRead32 devA { State.reset with len := 0xFFFFFFFF } off == 0) = true ∧
    hostRead8 devA State.reset 0x00004 = 0 ∧ hostRead8 devA State.reset 0x11000 = 0 ∧
    hostRead8 devA State.reset 0x10FFF = 0xA5 ∧ hostRead32 devA { State.reset with len := 7 } 0x0C = 7 := by decide

/-- A write back of equal memories gives equal data. -/
theorem test_memory_canonical :
    (Memory.set (Memory.set [] 5 1) 3 2) = (Memory.set (Memory.set [] 3 2) 5 1) ∧
    (Memory.set (Memory.set [] 5 1) 3 2).wf := by decide

/-- R83: a read of 0x25 ends a `POLL`, one of 0x8B does not. -/
theorem test_pollEnds : pollEnds 0x25 = true ∧ pollEnds 0x8B = false := by decide

/-- P5, lines 1 to 3: after `LEN = 0` the host polls 0x04 and reads `OUTLEN = 0`, and `ENCRYPTCALL` has no further line. -/
theorem test_encryptcall_P5 : ∃ t,
    hostRun [[], [.ctx true, .ctrl, .ctrl], []] encryptCallProgram State.reset = .next ([], t) ∧
    t.replies = [.word 0x04, .word 0] := ⟨_, rfl, rfl⟩

/-- R83: the `OUTLEN` that was read gives the bytes still to read. -/
theorem test_readResult : HostItem.readResult.after (some (.word 2)) = lineProgram [.rd8ob 0, .rd8ob 1] := by decide

/-! ### Witnesses: for each statement with hypotheses, a state and operands that meet them -/

/-- A state with moves in store. -/
def withMoves (s : State) (moves : List Move) : State := { s with schedule := moves }

/-- An operation on `L` bytes at `CTXCHK`. -/
def atCtxchk (ready : Bool) : State := { State.reset with state := .ctxcheck, len := 16, ctxReady := ready }

/-- An operation at `DERIVE`. -/
def atDerive (L : Word) : State := { State.reset with state := .derive, len := L }

/-- An operation on one block before its `BUILD`. -/
def atBuild : State := { State.reset with state := .encrypting, len := 16, key := deriveKey Config.hw, nblk := 1 }

/-- The same operation with its request outstanding. -/
def atResp : State := { atBuild with
  ph := true, iblk := padblock Config.hw.zeroStop (State.reset.ctByte Config.hw) 16 0 }

/-- The same operation done. -/
def atDone : State := { atBuild with state := .done, i := 1, outlen := 16, ob := [(16, 1)] }

/-- A length that is `CAP`, or `n` above it. -/
theorem toNat_capPlus (n : Nat) (h : n < 2 ^ 31) : (BitVec.ofNat 32 (Config.hw.cap + n)).toNat = Config.hw.cap + n := by
  have := cap_le Config.hw
  rw [BitVec.toNat_ofNat]; omega

/-- The index of the last block of the buffer, or `n` above it. -/
theorem toNat_lastBlock (n : Nat) (h : n < 2 ^ 15) :
    (BitVec.ofNat 16 (Config.hw.capBlocks.val + n)).toNat = Config.hw.capBlocks.val + n := by
  have := Config.hw.capBlocks.isLt
  rw [BitVec.toNat_ofNat]; omega

theorem witness_inv_atResp : Inv Config.hw atResp ∧ Progress Config.hw atResp := by
  have hc := cap_ge Config.hw
  refine ⟨⟨by decide, by decide, fun _ => hc, fun _ => by decide, by decide, by decide, ?_, fun _ => rfl, by decide,
    by decide, by decide⟩, ⟨fun _ j hj => absurd hj (Nat.not_lt_zero j), fun _ => ⟨rfl, rfl⟩⟩⟩
  exact ⟨by decide, Nat.zero_le _⟩

theorem witness_inv_atBuild : Inv Config.hw atBuild := by
  have hc := cap_ge Config.hw
  exact ⟨by decide, by decide, fun _ => hc, fun _ => by decide, by decide, by decide, ⟨by decide, Nat.zero_le _⟩,
    fun _ => rfl, by decide, by decide, by decide⟩

theorem witness_inv_atDerive : Inv Config.hw (atDerive 16) ∧ Inv Config.hw (atDerive 0) := by
  have hc := cap_ge Config.hw
  exact ⟨⟨by decide, by decide, fun _ => hc, by decide, by decide, by decide, ⟨by decide, Nat.zero_le _⟩, by decide,
    by decide, by decide, by decide⟩, ⟨by decide, by decide, fun _ => Nat.zero_le _, by decide, by decide, by decide,
    ⟨by decide, Nat.zero_le _⟩, by decide, by decide, by decide, by decide⟩⟩

theorem witness_inv_atCtxchk (ready : Bool) : Inv Config.hw (atCtxchk ready) := by
  have hc := cap_ge Config.hw
  cases ready <;>
  exact ⟨by decide, by decide, fun _ => hc, by decide, by decide, by decide, ⟨by decide, Nat.zero_le _⟩, by decide,
    by decide, by decide, by decide⟩

theorem witness_ResetEventFromAnyState :
    (withMoves atResp [.reset, .prim true]).schedule = .reset :: [.prim true] ∧ [Move.prim true] = .prim true :: [] :=
  ⟨rfl, rfl⟩

theorem witness_DecodeOfEncodeIsIdentity : Instr.getid.wellFormed = true ∧ Instr.respFail.wellFormed = true := ⟨rfl, rfl⟩

theorem witness_OnlyEncodedWordsDecode :
    (∃ i, decodeCmd 1 = .ok i) ∧ (∃ i, decodeCmd 2 = .ok i) ∧ ¬(∃ i, decodeCmd 3 = .ok i) ∧
    ¬(∃ i, decodeCmd 0xFFFFFFFF = .ok i) := by
  refine ⟨⟨.getid, by decide⟩, ⟨.encrypt, by decide⟩, ?_, ?_⟩ <;>
    (rintro ⟨i, h⟩; rcases decodeCmd_ok h with ⟨-, h⟩ | ⟨-, h⟩ <;> revert h <;> decide)

theorem witness_StepRunsDecodedInstruction :
    (State.reset.busy = false ∧ (withMoves State.reset [.host (.write32 0x00000 2)]).schedule =
      .host (.write32 0x00000 2) :: [] ∧ decode (.cmd32 2) = .ok .encrypt) ∧
    ((withMoves (atDerive 16) [.ctrl]).schedule = .ctrl :: [] ∧
      decode (.seq4 (withMoves (atDerive 16) [.ctrl]).seq none) = .ok .derive) ∧
    ((atDerive 16).schedule = [] ∧ decode (.seq4 (atDerive 16).seq none) = .ok .derive) ∧
    ((withMoves atResp [.prim true]).schedule = .prim true :: [] ∧
      decode (.seq4 (withMoves atResp [.prim true]).seq (some true)) = .ok .respOk) := by decide

theorem witness_SequencerSelectsByStateAndPhase :
    ((atCtxchk true).state = .ctxcheck ∧ (atCtxchk true).ph = false) ∧
    ((atDerive 0).state = .derive ∧ (atDerive 0).ph = false) ∧ (atBuild.state = .encrypting ∧ atBuild.ph = false) ∧
    State.reset.busy = false ∧ (atResp.state = .encrypting ∧ atResp.ph = true) ∧
    ¬(State.reset.state = .encrypting ∧ State.reset.ph = true) := by decide

theorem witness_IndexRuleDoesNotSaturate :
    ((0 : Int) ≤ 0 ∧ (0 : Int) ≤ 3) ∧ ((0 : Int) ≤ 3 ∧ (3 : Int) ≤ 3) ∧ ((-1 : Int) < 0 ∨ 3 < (-1 : Int)) ∧
    ((4 : Int) < 0 ∨ 3 < (4 : Int)) := by decide

theorem witness_GetidReturnsSelectedWord : State.reset.busy = false ∧ atDone.busy = false ∧ atResp.busy = true := by decide

/-- K2 and K4: the same words 0 and 1, and other words 2 and 3. -/
theorem witness_KeyIsLowIdentifierBytesTwice :
    let k4 : Config := { devB with devid := fun k => if k.val < 2 then devB.devid k else 0 }
    devB.devid 0 = k4.devid 0 ∧ devB.devid 1 = k4.devid 1 ∧ devB.devid 2 ≠ k4.devid 2 := by decide

theorem witness_KeyRecoverableFromTwoGetids :
    State.reset.busy = false ∧ ({ State.reset with index := 1 } : State).busy = false ∧ State.reset.index = 0 ∧
    (∃ t, exec .getid State.reset = .next t) ∧ (∃ t, exec .getid { State.reset with index := 1 } = .next t) :=
  ⟨rfl, rfl, rfl, ⟨_, rfl⟩, ⟨_, rfl⟩⟩

/-- `DERIVE` with the two lengths that end in `DONE` and in `ENCRYPTING`, and the greatest length that is accepted. -/
theorem witness_DeriveWritesKeyAndAllocates :
    ((atDerive 0).state = .derive ∧ (atDerive 0).ph = false) ∧
    (∃ t, exec .derive (atDerive 0) = .next t ∧ t.nblk = 0) ∧ (∃ t, exec .derive (atDerive 1) = .next t ∧ t.nblk ≠ 0) ∧
    (atDerive (BitVec.ofNat 32 (Config.hw.cap + 0))).len.toNat ≤ Config.hw.cap :=
  ⟨⟨rfl, rfl⟩, ⟨_, rfl, by decide⟩, ⟨_, rfl, by decide⟩, Nat.le_of_eq (toNat_capPlus 0 (by decide))⟩

theorem witness_BlockCountIsCeiling :
    (1 ≤ 1 ∧ 1 ≤ 16) ∧ (1 ≤ 16 ∧ 16 ≤ 16) ∧ 0 ≤ Config.hw.cap ∧ Config.hw.cap ≤ Config.hw.cap := by simp

theorem witness_EncryptAcceptedWhenItFits :
    State.reset.busy = false ∧ State.reset.len.toNat ≤ Config.hw.cap ∧
    ({ atDone with len := BitVec.ofNat 32 (Config.hw.cap + 0) } : State).busy = false ∧
    ({ atDone with len := BitVec.ofNat 32 (Config.hw.cap + 0) } : State).len.toNat ≤ Config.hw.cap ∧
    atResp.busy = true ∧ (∃ a, regionOf Config.hw 0x20000 = .obByte a) :=
  ⟨rfl, Nat.zero_le _, rfl, Nat.le_of_eq (toNat_capPlus 0 (by decide)), rfl,
    ⟨0, regionOf_ob (a := 0) (Nat.lt_of_lt_of_le (by decide) (cap_ge _))⟩⟩

theorem witness_EncryptRefusesTooLong :
    ({ State.reset with len := BitVec.ofNat 32 (Config.hw.cap + 1) } : State).busy = false ∧
    Config.hw.cap < ({ State.reset with len := BitVec.ofNat 32 (Config.hw.cap + 1) } : State).len.toNat ∧
    Config.hw.cap < ({ State.reset with len := 0xFFFFFFFF } : State).len.toNat ∧ 16 ≤ Config.hw.cap := by
  refine ⟨rfl, ?_, Nat.lt_of_le_of_lt (cap_le _) (by decide), cap_ge _⟩
  rw [show ({ State.reset with len := BitVec.ofNat 32 (Config.hw.cap + 1) } : State).len.toNat = _ from
    toNat_capPlus 1 (by decide)]
  exact Nat.lt_succ_self _

theorem witness_ContextGateDecides :
    ((atCtxchk true).state = .ctxcheck ∧ (atCtxchk true).ph = false ∧ (atCtxchk true).ctxReady = true) ∧
    ((atCtxchk false).state = .ctxcheck ∧ (atCtxchk false).ph = false ∧ (atCtxchk false).ctxReady = false) ∧
    (Instr.derive ≠ .ctxchk ∧ ∃ t, exec .derive (atDerive 16) = .next t) :=
  ⟨by decide, by decide, by decide, ⟨_, rfl⟩⟩

/-- A trailing zero byte (B7), a byte outside the window, and the same text without the zero byte. -/
theorem witness_PaddedBlockByteByByte :
    let f : Nat → Byte := fun a => if a = 0 then 0x41 else if a = 1 then 0x42 else if a = 16 then 0x51 else 0
    (∀ j k, j < k → k < avail 3 0 → f (16 * 0 + j) = 0 → f (16 * 0 + k) = 0) ∧
    (∀ k, 16 * 0 ≤ k → k < 16 * 0 + 16 → k < 3 → f k = (fun a => if a = 16 then 0x99 else f a) k) ∧
    (2 ≤ 3 ∧ ∀ k, 2 ≤ k → k < 3 → f k = 0) := by
  refine ⟨?_, ?_, by decide, ?_⟩
  · intro j k _ hk; have : k < 3 := hk; interval_cases k
    · omega
    · have : j = 0 := by omega
      subst this; decide
    · intro _; rfl
  · intro k _ _ h; interval_cases k <;> rfl
  · intro k h₁ h₂; interval_cases k; rfl

/-- `BUILD` of the only block of a text, and of the last block of a buffer that is full. -/
theorem witness_BuildRequestsPaddedBlock :
    let last : State := { atBuild with
      len := BitVec.ofNat 32 (Config.hw.cap + 0), i := BitVec.ofNat 16 (Config.hw.capBlocks.val + 0) }
    (atBuild.state = .encrypting ∧ atBuild.ph = false ∧ atBuild.i.toNat < ceil16 atBuild.len.toNat ∧
      atBuild.len.toNat ≤ Config.hw.cap) ∧
    (last.state = .encrypting ∧ last.ph = false ∧ last.i.toNat < ceil16 last.len.toNat ∧
      last.len.toNat ≤ Config.hw.cap) := by
  have e := toNat_capPlus 0 (by decide)
  have e' := toNat_lastBlock 0 (by decide)
  intro last
  refine ⟨⟨rfl, rfl, by decide, cap_ge _⟩, rfl, rfl, ?_, Nat.le_of_eq e⟩
  have e : last.len.toNat = Config.hw.cap + 0 := e
  rw [e, show last.i.toNat = Config.hw.capBlocks.val + 0 from e', Config.cap, ceil16]; omega

/-- `RESP` of the first and of the last block of the buffer. -/
theorem witness_RespOkAppendsBlock :
    let last : State := { atResp with i := BitVec.ofNat 16 (Config.hw.capBlocks.val + 0) }
    (atResp.state = .encrypting ∧ atResp.ph = true ∧ 16 * atResp.i.toNat + 16 ≤ Config.hw.cap ∧
      atResp.outlen.toNat = 16 * atResp.i.toNat ∧ atResp.i + 1 = atResp.nblk) ∧
    (last.state = .encrypting ∧ last.ph = true ∧ 16 * last.i.toNat + 16 ≤ Config.hw.cap) ∧
    (({ atResp with nblk := 2 } : State).i + 1 ≠ ({ atResp with nblk := 2 } : State).nblk) := by
  refine ⟨⟨rfl, rfl, cap_ge _, by decide, by decide⟩, ⟨rfl, rfl, ?_⟩, by decide⟩
  simp only [toNat_lastBlock 0 (by decide), Config.cap]; omega

theorem witness_RespFailDiscards : atResp.state = .encrypting ∧ atResp.ph = true := ⟨rfl, rfl⟩

theorem witness_ResponseRefusedWhenNotOwed :
    ¬(State.reset.state = .encrypting ∧ State.reset.ph = true) ∧
    ¬(atBuild.state = .encrypting ∧ atBuild.ph = true) := by decide

/-- The first block beyond the buffer. -/
theorem witness_AccessBeyondBufferFaults :
    let b : State := { atBuild with len := 0xFFFFFFFF, i := BitVec.ofNat 16 (Config.hw.capBlocks.val + 1) }
    (b.state = .encrypting ∧ b.ph = false ∧ 16 * b.i.toNat < b.len.toNat ∧
      Config.hw.cap < 16 * b.i.toNat + min 16 (b.len.toNat - 16 * b.i.toNat)) ∧
    (({ b with ph := true } : State).ph = true ∧ Config.hw.cap < 16 * b.i.toNat + 16) := by
  have := Config.hw.capBlocks.isLt
  have e : (0xFFFFFFFF : Word).toNat = 0xFFFFFFFF := rfl
  refine ⟨⟨rfl, rfl, ?_, ?_⟩, rfl, ?_⟩ <;> simp only [toNat_lastBlock 1 (by decide), Config.cap, e] <;> omega

theorem witness_DisabledMicroOperationDoesNothing :
    ¬(State.reset.state = .ctxcheck ∧ State.reset.ph = false) ∧ ¬(State.reset.state = .derive ∧ State.reset.ph = false) ∧
    ¬(atResp.state = .encrypting ∧ atResp.ph = false) := by decide

theorem witness_EveryAbortMakesTheSameEntry :
    (∃ t, exec .encrypt { State.reset with len := 0xFFFFFFFF } = .next t ∧ t.state = .aborted) ∧
    (∃ t, exec .ctxchk (atCtxchk false) = .next t ∧ t.state = .aborted ∧ (atCtxchk false).state ≠ .aborted) ∧
    (∃ t, exec .respFail atResp = .next t ∧ t.state = .aborted ∧ atResp.state ≠ .aborted) :=
  ⟨⟨_, exec_encrypt_refuse rfl (Nat.lt_of_le_of_lt (cap_le _) (by decide)), rfl⟩, ⟨_, rfl, rfl, by decide⟩,
    ⟨_, rfl, rfl, by decide⟩⟩

theorem witness_WindowStandsAtBase :
    devA.offsetOf 0x3FFFF = some 0x3FFFF ∧ devA.offsetOf 0x40000 = none ∧
    ({ devA with basePage := 1 } : Config).offsetOf 0x3FFFF = none ∧
    ({ devA with basePage := 1 } : Config).offsetOf 0x40000 = some 0 := by decide

/-- The places next to the edges of the map. -/
theorem witness_WindowMapIsAsTabled :
    regionOf devA 0x00014 = .reg .outlen ∧ regionOf devA 0x00018 = .reserved ∧ regionOf devA 0x00006 = .reserved ∧
    regionOf devA 0x10000 = .ctByte 0 ∧ regionOf devA 0x10FFF = .ctByte 4095 ∧ regionOf devA 0x11000 = .reserved ∧
    regionOf devA 0x20FFF = .obByte 4095 ∧ regionOf devA 0x30000 = .reserved := by decide

theorem witness_StatusWordsAreTheTabledOnes : Inv Config.hw atResp ∧ atResp.busy = true := ⟨witness_inv_atResp.1, rfl⟩

theorem witness_WordReadReturnsRegister :
    (withMoves atResp [.host (.read32 0x04)]).schedule = .host (.read32 0x04) :: [] ∧
    ((0x16 : Offset).toNat % 4 ≠ 0 ∨ 0x18 ≤ (0x16 : Offset).toNat) ∧
    ((0x18 : Offset).toNat % 4 ≠ 0 ∨ 0x18 ≤ (0x18 : Offset).toNat) := by decide

/-- The first and the last byte of an aperture, and the places next to the two. -/
theorem witness_ByteReadGoesThroughTheGate :
    (withMoves atDone [.host (.read8 0x20000)]).schedule = .host (.read8 0x20000) :: [] ∧ 0 < Config.hw.cap ∧
    (0x20000 : Offset).toNat = 0x20000 + 0 ∧ Config.hw.cap - 1 < Config.hw.cap ∧
    (BitVec.ofNat 18 (0x10000 + (Config.hw.cap - 1))).toNat = 0x10000 + (Config.hw.cap - 1) ∧
    (∀ a, a < Config.hw.cap → (0x0FFFF : Offset).toNat ≠ 0x10000 + a ∧ (0x0FFFF : Offset).toNat ≠ 0x20000 + a) ∧
    (∀ a, a < Config.hw.cap → (0x30000 : Offset).toNat ≠ 0x10000 + a ∧ (0x30000 : Offset).toNat ≠ 0x20000 + a) := by
  have := cap_ge Config.hw
  have := cap_le Config.hw
  have e₁ : (0x0FFFF : Offset).toNat = 0x0FFFF := rfl
  have e₂ : (0x30000 : Offset).toNat = 0x30000 := rfl
  refine ⟨rfl, by omega, rfl, by omega, ?_, ?_, ?_⟩
  · rw [BitVec.toNat_ofNat]; omega
  · rw [e₁]; omega
  · rw [e₂]; omega

theorem witness_WordWriteWhenNotBusy :
    State.reset.busy = false ∧
    (withMoves State.reset [.host (.write32 0x00 3)]).schedule = .host (.write32 0x00 3) :: [] ∧
    (3 : Word) ≠ 0x00000001 ∧ (3 : Word) ≠ 0x00000002 ∧
    ((0x14 : Offset) ≠ 0x00 ∧ (0x14 : Offset) ≠ 0x08 ∧ (0x14 : Offset) ≠ 0x0C) := by decide

theorem witness_ByteWriteWhenNotBusy :
    (withMoves State.reset [.host (.write8 0x10000 0x41)]).busy = false ∧
    (withMoves State.reset [.host (.write8 0x10000 0x41)]).schedule = .host (.write8 0x10000 0x41) :: [] ∧
    0 < Config.hw.cap ∧ (0x10000 : Offset).toNat = 0x10000 + 0 ∧
    (∀ a, a < Config.hw.cap → (0x20000 : Offset).toNat ≠ 0x10000 + a) := by
  have := cap_ge Config.hw
  have := cap_le Config.hw
  have e : (0x20000 : Offset).toNat = 0x20000 := rfl
  refine ⟨rfl, rfl, by omega, rfl, ?_⟩
  rw [e]; omega

theorem witness_WritesDroppedWhileBusy :
    (withMoves atResp [.host (.write32 0x0C 1)]).busy = true ∧
    (withMoves atResp [.host (.write32 0x0C 1)]).schedule = .host (.write32 0x0C 1) :: [] ∧
    (withMoves atResp [.host (.write8 0x10000 0x5A)]).schedule = .host (.write8 0x10000 0x5A) :: [] := ⟨rfl, rfl, rfl⟩

/-- No byte is one more than itself. -/
theorem byte_ne_succ (b : Byte) : b ≠ b + 1 := by
  intro h
  have h := congrArg BitVec.toNat h
  rw [BitVec.toNat_add, show (1 : Byte).toNat = 1 from rfl] at h
  omega

/-- Steps of the host that change `INDEX`, `IDWORD` and `CMDERR`. -/
theorem witness_EachRegisterHasItsWriters :
    (∃ t, step (withMoves State.reset [.host (.write32 0x08 1)]) = .next t ∧ ¬SameOperands Config.hw State.reset t) ∧
    (∃ t, step (withMoves { State.reset with idword := Config.hw.devid 0 + 1 } [.host (.write32 0x00 1)]) = .next t ∧
      t.idword ≠ Config.hw.devid 0 + 1) ∧
    (∃ t, step (withMoves State.reset [.host (.write32 0x00 3)]) = .next t ∧ t.cmderr ≠ State.reset.cmderr) := by
  refine ⟨⟨_, rfl, fun h => absurd h.1 (by decide)⟩, ⟨_, rfl, ?_⟩, ⟨_, rfl, by decide⟩⟩
  show Config.hw.devid 0 ≠ Config.hw.devid 0 + 1
  generalize Config.hw.devid 0 = w
  intro h
  have h := congrArg BitVec.toNat h
  rw [BitVec.toNat_add, show (1 : Word).toNat = 1 from rfl] at h
  omega

/-- The step that accepts `ENCRYPT` changes `STATE`; where a state no run reaches has `PH = 1` while not busy, it changes
`PH` as well. -/
theorem witness_EachRegisterHasItsWriters_accept :
    ∃ t, step (withMoves { State.reset with ph := true } [.host (.write32 0x00 2)]) = .next t ∧
      t.state ≠ State.reset.state ∧ t.ph ≠ true := ⟨_, rfl, by decide⟩

/-- Steps of `CTRL` that change `STATE` and `ERR`, `STATE` and `NBLK`, and `I`. -/
theorem witness_EachRegisterHasItsWriters_ctrl :
    (∃ t, step (atCtxchk false) = .next t ∧ t.state ≠ (atCtxchk false).state ∧ t.err ≠ (atCtxchk false).err) ∧
    (∃ t, step { atDerive 16 with i := 1 } = .next t ∧ t.state ≠ .derive ∧ t.nblk ≠ 0 ∧ t.i ≠ 1) :=
  ⟨⟨_, rfl, by decide⟩, ⟨_, rfl, by decide⟩⟩

/-- `BUILD` changes `OBLK` and `PH`; a failing response changes `STATE`, `PH` and `OUTLEN`. -/
theorem witness_EachRegisterHasItsWriters_block :
    (∃ t, step { atBuild with oblk := block [1] } = .next t ∧ t.oblk ≠ block [1] ∧ t.ph ≠ atBuild.ph) ∧
    (∃ t, step (withMoves { atResp with outlen := 16 } [.prim false]) = .next t ∧
      t.state ≠ atResp.state ∧ t.ph ≠ atResp.ph ∧ t.outlen ≠ 16) := by
  refine ⟨⟨_, (step_nil rfl).trans ((ctrlStep_build rfl rfl).trans (exec_build rfl rfl ?_)), by decide⟩, ⟨_, rfl, by decide⟩⟩
  exact (inBuffer_iff _ _ _).2 (Or.inr (cap_ge _))

/-- Steps that change `KEY`, `IBLK` and a byte of `OB`. -/
theorem witness_EachRegisterHasItsWriters_blocks :
    (∃ t, step { atDerive 16 with key := Vector.replicate 16 ((deriveKey Config.hw)[0] + 1) } = .next t ∧
      t.key ≠ Vector.replicate 16 ((deriveKey Config.hw)[0] + 1)) ∧
    (∃ t, step { atBuild with len := 1, iblk := Vector.replicate 16 1 } = .next t ∧ t.iblk ≠ Vector.replicate 16 1) ∧
    (∃ t, step (withMoves { atResp with ob := [(0, (Config.hw.e atResp.key atResp.iblk)[0] + 1)] } [.prim true]) =
        .next t ∧
      ¬SameOb Config.hw { atResp with ob := [(0, (Config.hw.e atResp.key atResp.iblk)[0] + 1)] } t) := by
  refine ⟨⟨_, rfl, fun h => ?_⟩, ⟨_, (step_nil rfl).trans ((ctrlStep_build rfl rfl).trans (exec_build rfl rfl ?_)),
    fun h => ?_⟩, ⟨_, rfl, fun h => ?_⟩⟩
  · exact byte_ne_succ _ (congrArg (fun b : Block => b[0]) h)
  · exact (inBuffer_iff _ _ _).2 (Or.inr (Nat.le_trans (by decide) (cap_ge _)))
  · have h := congrArg (fun b : Block => b[(15 : Fin 16)]) h
    have h : (padWindow Config.hw.zeroStop
      (win (State.ctByte Config.hw { atBuild with len := 1 }) 1 0))[(15 : Fin 16)] = 1 := h
    rw [padWindow_getElem, if_neg] at h
    · exact absurd h (by decide)
    · have := ncopy_le Config.hw.zeroStop (win (State.ctByte Config.hw { atBuild with len := 1 }) 1 0)
      exact Nat.not_lt.2 (Nat.le_trans this (by decide))
  · let s : State := withMoves { atResp with ob := [(0, (Config.hw.e atResp.key atResp.iblk)[0] + 1)] } []
    exact byte_ne_succ _ ((s.obByte_writeOb_inside Config.hw 0 (Config.hw.e atResp.key atResp.iblk) 0).symm.trans (h 0))

theorem witness_ResultStaysUntilNextEncrypt :
    (withMoves atDone [.host (.write32 0x0C 1)]).busy = false ∧ atDone.outlen.toNat ≤ Config.hw.cap ∧
    (∃ t, step (withMoves atDone [.host (.write32 0x0C 1)]) = .next t) ∧
    (withMoves atDone [.host (.write32 0x0C 1)]).nextMove ≠ .reset ∧
    (withMoves atDone [.host (.write32 0x0C 1)]).nextMove ≠ .host (.write32 0x00000 0x00000002) :=
  ⟨rfl, cap_ge _, ⟨_, rfl⟩, by decide, by decide⟩

theorem witness_HostCannotDisturbOperation :
    atResp.busy = true ∧ (∃ x, (withMoves atResp [.host (.write32 0x00 2)]).nextMove = .host x) ∧
    (∃ b, (withMoves atResp [.ctx true]).nextMove = .ctx b) := ⟨rfl, ⟨_, rfl⟩, ⟨_, rfl⟩⟩

/-- Two states that differ in one physical byte at `OUTLEN`. -/
theorem witness_DiscardedBytesUnreadable :
    let t : State := { atDone with ob := [(16, 2)] }
    t = { atDone with ob := t.ob } ∧ t ≠ atDone ∧
    (atDone.state = .done → ∀ a, a < atDone.outlen.toNat → t.obByte Config.hw a = atDone.obByte Config.hw a) := by
  refine ⟨rfl, fun h => absurd (congrArg State.ob h) (by decide), fun _ a ha => ?_⟩
  have ha : a < 16 := ha
  interval_cases a <;> rfl

theorem witness_StepKeepsInvariants :
    Inv Config.hw atResp ∧ (∃ t, step atResp = .next t) ∧ (∃ t, step (withMoves atResp [.prim true]) = .next t) :=
  ⟨witness_inv_atResp.1, ⟨_, rfl⟩, ⟨_, rfl⟩⟩

theorem witness_StepKeepsProgress :
    Inv Config.hw atResp ∧ Progress Config.hw atResp ∧ (∃ t, step (withMoves atResp [.prim true]) = .next t) :=
  ⟨witness_inv_atResp.1, witness_inv_atResp.2, ⟨_, rfl⟩⟩

theorem witness_InvariantStatesNeverStop : Inv Config.hw atResp ∧ Inv Config.hw atBuild :=
  ⟨witness_inv_atResp.1, witness_inv_atBuild⟩

theorem witness_SequencerTransitions :
    (Inv Config.hw (atCtxchk true) ∧ (∃ t, step (atCtxchk true) = .next t ∧ t.state = .derive) ∧
      (atCtxchk true).nextMove ≠ .reset) ∧
    (Inv Config.hw (atDerive 16) ∧ ∃ t, step (atDerive 16) = .next t ∧ t.state = .encrypting) ∧
    (Inv Config.hw (atDerive 0) ∧ ∃ t, step (atDerive 0) = .next t ∧ t.state = .done) ∧
    (Inv Config.hw atResp ∧ ∃ t, step (withMoves atResp [.prim false]) = .next t ∧ t.state = .aborted) :=
  ⟨⟨witness_inv_atCtxchk true, ⟨_, rfl, rfl⟩, by decide⟩, ⟨witness_inv_atDerive.1, _, rfl, rfl⟩,
    ⟨witness_inv_atDerive.2, _, rfl, rfl⟩, ⟨witness_inv_atResp.1, _, rfl, rfl⟩⟩

theorem witness_LastResponseDeliversWholeResult :
    Inv Config.hw atResp ∧ Progress Config.hw atResp ∧ atResp.state = .encrypting ∧ atResp.ph = true ∧
    atResp.i.toNat + 1 = atResp.nblk.toNat := ⟨witness_inv_atResp.1, witness_inv_atResp.2, rfl, rfl, rfl⟩

theorem witness_RemainingStepsDecrease :
    (∃ t, exec .encrypt State.reset = .next t ∧ State.reset.busy = false) ∧
    (Inv Config.hw (atDerive 16) ∧ (atDerive 16).busy = true ∧ (∃ t, step (atDerive 16) = .next t) ∧
      (atDerive 16).nextMove ≠ .reset) :=
  ⟨⟨_, rfl, rfl⟩, witness_inv_atDerive.1, rfl, ⟨_, rfl⟩, by decide⟩

theorem witness_NoResponseHangs :
    atResp.state = .encrypting ∧ atResp.ph = true ∧ atResp.schedule = [] ∧ Inv Config.hw atResp :=
  ⟨rfl, rfl, rfl, witness_inv_atResp.1⟩

theorem witness_NotBusyWaitsForHost : atDone.busy = false ∧ atDone.schedule = [] := ⟨rfl, rfl⟩

/-- A whole operation in store in the reset state, with a host read between its moves. -/
def operationInStore (L : Word) (ctx : Bool) (fails : Nat → Bool) : State :=
  { State.reset with
    len := L
    schedule := operationSchedule Config.hw L.toNat ctx fails (fun _ => [.read32 0x04]) ++ [.ctrl] }

theorem witness_OperationComputesEncryptOp :
    (operationInStore 17 true fun k => k == 1).busy = false ∧
    (operationInStore 17 true fun k => k == 1).schedule = operationSchedule Config.hw
      (operationInStore 17 true fun k => k == 1).len.toNat true (fun k => k == 1) (fun _ => [.read32 0x04]) ++ [.ctrl] :=
  ⟨rfl, rfl⟩

theorem witness_OperationPortHistory :
    (operationInStore 0xFFFFFFFF false fun _ => false).busy = false ∧
    (operationInStore 0xFFFFFFFF false fun _ => false).schedule = operationSchedule Config.hw
      (operationInStore 0xFFFFFFFF false fun _ => false).len.toNat false (fun _ => false) (fun _ => [.read32 0x04]) ++
      [.ctrl] := ⟨rfl, rfl⟩

/-- BC9, X1, F2 and O4: the four outcomes. -/
theorem witness_InvocationCounts :
    devB.cap < 4097 ∧ 4096 ≤ devB.cap ∧ firstFailure (fun k => k == 1) (ceil16 40) = some 1 ∧
    firstFailure (fun _ => false) (ceil16 17) = none := by decide

theorem witness_LawsOfTheOperation :
    (∃ out, encryptOp devB (fun _ => 0x30) 32 true (fun _ => false) = .done out) ∧
    (0 < ceil16 32 ∧ 1 < ceil16 32 ∧
      padblock devB.zeroStop (fun _ => 0x30) 32 0 = padblock devB.zeroStop (fun _ => 0x30) 32 1) ∧
    4096 ≤ devB.cap ∧ (∃ k, k < ceil16 40 ∧ (fun k => k == 1) k = true) ∧
    (∀ a, a < 1 → (fun _ => (0x30 : Byte)) a = (fun a => if a = 1 then 0x99 else 0x30) a) := by
  refine ⟨⟨_, rfl⟩, by decide, by decide, ⟨1, by decide⟩, ?_⟩
  intro a ha; interval_cases a; rfl

theorem witness_EqualCleartextsEncryptEqually :
    (operationInStore 17 true fun _ => false).busy = false ∧
    (operationInStore 17 true fun _ => false).len = (operationInStore 17 true fun _ => false).len ∧
    (operationInStore 17 true fun _ => false).schedule = operationSchedule Config.hw
      (operationInStore 17 true fun _ => false).len.toNat true (fun _ => false) (fun _ => [.read32 0x04]) ++ [.ctrl] :=
  ⟨rfl, rfl, rfl⟩

theorem witness_GetDeviceIdReturnsWord :
    (-2 ^ 31 ≤ (-2 ^ 31 : Int) ∧ (-2 ^ 31 : Int) < 2 ^ 31) ∧ (-2 ^ 31 ≤ (2 ^ 31 - 1 : Int) ∧ (2 ^ 31 - 1 : Int) < 2 ^ 31) ∧
    (withMoves State.reset (asmMoves (getDeviceIdLines (-1)))).busy = false ∧
    (withMoves State.reset (asmMoves (getDeviceIdLines (-1)))).schedule = asmMoves (getDeviceIdLines (-1)) ++ [] := by
  decide

theorem witness_LoadPlacesCleartext :
    (withMoves State.reset (asmMoves (loadLines [0x48, 0x65]))).busy = false ∧
    ([0x48, 0x65] : List Byte).length ≤ Config.hw.cap ∧
    (withMoves State.reset (asmMoves (loadLines [0x48, 0x65]))).schedule = asmMoves (loadLines [0x48, 0x65]) ++ [] :=
  ⟨rfl, Nat.le_trans (by decide) (cap_ge _), rfl⟩

/-- A turn of `POLL` that ends, and one that does not. -/
theorem witness_PollRepeatsUntilNotBusy :
    (∃ t, hostTurn [.prim false] [.poll, .readResult] atResp = .next ([.readResult], t) ∧ t.busy = false ∧
      t.pollResult = some 0x25) ∧
    (∃ t, hostTurn [.ctx true] [.poll] atResp = .next ([.poll], t) ∧ t.busy = true ∧ t.pollResult = some 0x8B) ∧
    State.reset.busy = false ∧ atResp.busy = true :=
  ⟨⟨_, rfl, rfl, rfl⟩, ⟨_, rfl, rfl, rfl⟩, rfl, rfl⟩

/-- The empty cleartext, polled once in between, and a refused length, polled once. -/
theorem witness_EncryptCallReadsFlattenedResult :
    (State.reset.busy = false ∧
      [[Move.ctx true]].flatten ++ [.ctrl, .ctrl] = operationMoves Config.hw State.reset.len.toNat true (fun _ => false) ∧
      ([[Move.ctx true]] = [] ∨ [Move.ctrl, .ctrl] ≠ [])) ∧
    ([] : List (List Move)).flatten ++ [] = operationMoves Config.hw (0xFFFFFFFF : Word).toNat true (fun _ => false) := by
  refine ⟨⟨rfl, rfl, .inr (by simp)⟩, ?_⟩
  have := cap_le Config.hw
  have h : (0xFFFFFFFF : Word).toNat > Config.hw.cap := by simp; omega
  simp only [operationMoves, if_pos h]; rfl

end Sys2Proof.Tests
end

section
/-! PROOFS. How each agent's step comes to `exec` of the instruction that its code word decodes to (R8, R46, R71, R78,
R120). -/

namespace Sys2Proof.Machine

open Sys2Proof

variable {s : State} {i : Instr}

/-- A write to `CMD` while not busy offers the word as a command (R46). -/
theorem hostStep_write_cmd (hb : s.busy = false) (v : Word) :
    hostStep (.write32 0x00000 v) s = offerCommand s v := by
  simp only [hostStep, hostWrite32, hb, regionOf_cmd, Bool.false_eq_true, if_false]

/-- A legal command word executes in the step that offers it (R71). -/
theorem offerCommand_of_decodeCmd {v : Word} (h : decodeCmd v = .ok i) : offerCommand s v = exec i s := by
  simp [offerCommand, h]

/-- `CTRL` executes the micro-operation that `SEQ` selects (R78). -/
theorem ctrlStep_of_decodeSeq (h : decodeSeq s.seq none = .ok i) : ctrlStep s = exec i s := by
  simp [ctrlStep, h]

/-- A response executes the arm of `RESP` that `SEQ` and the `ok` bit select (R120). -/
theorem primStep_of_decodeSeq {ok : Bool} (h : decodeSeq s.seq (some ok) = .ok i) : primStep ok s = exec i s := by
  simp [primStep, h]

/-- Settles O7: `step` performs the move at the head of the store (`CTRL`'s with nothing in store), and taking that move
out of store changes neither `BUSY` nor `SEQ`, so the hypotheses carry over to the state that `exec` gets. -/
theorem stepRunsDecodedInstruction : Obligations.StepRunsDecodedInstruction := by
  refine ⟨?command, ?ctrl, ?ctrlByDefault, ?response⟩
  case command =>
    intro s v rest i hb hs hd
    rw [step_cons hs]
    exact (hostStep_write_cmd (s := { s with schedule := rest }) hb v).trans (offerCommand_of_decodeCmd hd)
  case ctrl =>
    intro s rest i hs hd
    rw [step_cons hs]
    exact ctrlStep_of_decodeSeq (s := { s with schedule := rest }) hd
  case ctrlByDefault =>
    intro s i hs hd
    rw [step_nil hs]
    exact ctrlStep_of_decodeSeq hd
  case response =>
    intro s ok rest i hs hd
    rw [step_cons hs]
    exact primStep_of_decodeSeq (s := { s with schedule := rest }) hd

end Sys2Proof.Machine
end

section
/-! PROOFS. What a host read shows: the bits of `STATUS` (R14), the registers and bytes that a read depends on (R42,
R43, R45), and what is read after reset (R27). -/

namespace Sys2Proof.Machine

open Sys2Proof

variable {c : Config} {s t : State}

/-- `STATUS` bit by bit (R14). -/
theorem status_getLsbD (s : State) (k : Nat) : s.status.getLsbD k =
    if k < 3 then s.state.code.getLsbD k
    else if k = 3 then s.busy
    else if k < 6 then (errCode s.err).getLsbD (k - 4)
    else if k = 6 then s.cmderr
    else if k = 7 then s.ph
    else false := by
  change BitVec.getLsbD (w := 24 + 1 + 1 + 2 + 1 + 3) _ k = _
  simp only [State.status, BitVec.getLsbD_append, BitVec.getLsbD_ofBool, BitVec.getLsbD_zero]
  grind

/-- A field of a word is the vector whose bits stand there. -/
theorem extractLsb'_eq_of_getLsbD {v : Word} {start n : Nat} {f : BitVec n}
    (h : ∀ k < n, v.getLsbD (start + k) = f.getLsbD k) : v.extractLsb' start n = f :=
  BitVec.eq_of_getLsbD_eq fun k hk => by rw [BitVec.getLsbD_extractLsb', h k hk, decide_eq_true hk, Bool.true_and]

/-- Settles O28, field by field from the bits of the word. -/
theorem statusFieldsAreTheFlags : Obligations.StatusFieldsAreTheFlags := by
  intro s
  refine ⟨?code, ?busy, ?err, ?cmderr, ?ph, ?rest⟩
  case code => exact extractLsb'_eq_of_getLsbD fun k hk => by grind [status_getLsbD]
  case err => exact extractLsb'_eq_of_getLsbD fun k hk => by grind [status_getLsbD]
  case rest => exact extractLsb'_eq_of_getLsbD fun k hk => by grind [status_getLsbD]
  all_goals simp [status_getLsbD, -BitVec.getLsbD_eq_getElem]

/-- A word read depends on what the registers of the window read as (R45). -/
theorem hostRead32_congr (h : ∀ r, t.regRead r = s.regRead r) (off : Offset) :
    hostRead32 c t off = hostRead32 c s off := by
  simp only [hostRead32]
  cases regionOf c off <;> simp [h]

/-- A byte read depends on the bytes of `CT`, the gate and the bytes of `OB` (R42, R43). -/
theorem hostRead8_congr (hct : t.ctByte c = s.ctByte c) (hob : t.obByte c = s.obByte c) (hs : t.state = s.state)
    (ho : t.outlen = s.outlen) (off : Offset) : hostRead8 c t off = hostRead8 c s off := by
  simp only [hostRead8, hct, hob, hs, ho]

/-- Settles O38: `KEY`, `IBLK`, `OBLK`, `I` and `NBLK` are none of the things that a read depends on. -/
theorem internalRegistersInvisibleToHost : Obligations.InternalRegistersInvisibleToHost := by
  intro s key iblk oblk i nblk off t
  have hreg : ∀ r, t.regRead r = s.regRead r := fun r => by cases r <;> rfl
  exact ⟨hostRead32_congr hreg off,
    hostRead8_congr (State.ctByte_congr rfl rfl) (State.obByte_congr rfl rfl) rfl rfl off⟩

/-- Outside `DONE` the gate is shut (R43). -/
theorem hostRead8_ob_shut (hs : s.state ≠ .done) {a : Nat} (ha : a < c.cap) :
    hostRead8 c s (BitVec.ofNat 18 (0x20000 + a)) = 0 := by
  simp [hostRead8, regionOf_ob ha, hs]

/-- Settles O1: the registers are as written in `State.reset`, no byte of `CT` is listed, and the gate is shut. -/
theorem resetLeavesIdleAndZero : Obligations.ResetLeavesIdleAndZero :=
  ⟨rfl, rfl, rfl, rfl, rfl, rfl, rfl, rfl, rfl, rfl, by decide, fun _ => rfl,
    fun _ ha => hostRead8_ob_shut (by decide) ha⟩

end Sys2Proof.Machine
end

section
/-! PROOFS. The invariants of R26: one lemma per kind of state that says what establishes them there, what they do not
speak of, and that every effect of a step keeps them. -/

namespace Sys2Proof.Machine

open Sys2Proof

variable {c : Config} {s t : State}

/-! ### The form of a buffer (R20, R21), as `Inv` asks it of `CT` and of `OB` -/

/-- A buffer in canonical form, with no byte at or above `CAP`. -/
def BufferForm (c : Config) (m : Memory) : Prop := m.wf ∧ ∀ e ∈ m, e.1 < c.cap

theorem bufferForm_nil (c : Config) : BufferForm c [] := ⟨Memory.wf_nil, by simp⟩

theorem BufferForm.set {m : Memory} (h : BufferForm c m) {a : Nat} (ha : a < c.cap) (v : Byte) :
    BufferForm c (m.set a v) := by
  refine ⟨Memory.wf_set h.1 a v, fun e he => ?_⟩
  rcases Memory.mem_set he with rfl | he
  · exact ha
  · exact h.2 e he

theorem BufferForm.write {m : Memory} (h : BufferForm c m) {a : Nat} {l : List Byte} (ha : a + l.length ≤ c.cap) :
    BufferForm c (m.write a l) := by
  refine ⟨Memory.wf_write h.1 a l, fun e he => ?_⟩
  rcases Memory.mem_write he with he | ⟨-, he⟩
  · exact h.2 e he
  · omega

/-! ### What establishes the invariants in each kind of state -/

/-- The invariants say nothing of `INDEX`, `IDWORD`, the two block registers and what stands outside ECBC. -/
theorem inv_frame (h : Inv c s) (index idword : Word) (iblk oblk : Block) (ctxReady : Bool) (resets : Nat)
    (schedule : List Move) (history : List PortEvent) (replies : List HostReply) :
    Inv c { s with
      index := index, idword := idword, iblk := iblk, oblk := oblk, ctxReady := ctxReady, resets := resets
      schedule := schedule, history := history, replies := replies } :=
  ⟨h.abortedIffErr, h.phOnlyEncrypting, h.busyFits, h.blockInHand, h.doneWhole, h.emptyElsewhere, h.outlenBlocks,
    h.keyDerived, h.cmderrNotBusy, h.ctForm, h.obForm⟩

/-- Reset establishes the invariants (R27). -/
theorem inv_reset (c : Config) : Inv c State.reset where
  abortedIffErr := by decide
  phOnlyEncrypting := by decide
  busyFits _ := Nat.zero_le _
  blockInHand := by decide
  doneWhole := by decide
  emptyElsewhere := by decide
  outlenBlocks := ⟨rfl, Nat.zero_le _⟩
  keyDerived := by simp [State.reset]
  cmderrNotBusy := by decide
  ctForm := bufferForm_nil c
  obForm := bufferForm_nil c

/-- The abort entry (R144) establishes the invariants from the form of the buffers alone. -/
theorem inv_abort {cause : AbortCause} (hct : BufferForm c s.ct) (hob : BufferForm c s.ob) : Inv c (s.abort cause) where
  abortedIffErr := by simp
  phOnlyEncrypting := by simp
  busyFits := by simp [State.busy, SeqState.busy]
  blockInHand := by simp
  doneWhole := by simp
  emptyElsewhere := by simp
  outlenBlocks := by simp
  keyDerived := by simp
  cmderrNotBusy := by simp [State.busy, SeqState.busy]
  ctForm := hct
  obForm := hob

/-- An operation before its blocks, at `CTXCHECK` or `DERIVE`. -/
theorem inv_beforeBlocks (hs : s.state = .ctxcheck ∨ s.state = .derive) (hp : s.ph = false) (he : s.err = none)
    (hm : s.cmderr = false) (hl : s.len.toNat ≤ c.cap) (ho : s.outlen = 0) (hct : BufferForm c s.ct)
    (hob : BufferForm c s.ob) : Inv c s where
  abortedIffErr := by rcases hs with hs | hs <;> simp [hs, he]
  phOnlyEncrypting := by simp [hp]
  busyFits _ := hl
  blockInHand := by rcases hs with hs | hs <;> simp [hs]
  doneWhole := by rcases hs with hs | hs <;> simp [hs]
  emptyElsewhere _ _ := ho
  outlenBlocks := by simp [ho]
  keyDerived := by rcases hs with hs | hs <;> simp [hs]
  cmderrNotBusy _ := hm
  ctForm := hct
  obForm := hob

/-- An operation with a block in hand (R26 item 4). -/
theorem inv_encrypting (hs : s.state = .encrypting) (he : s.err = none) (hm : s.cmderr = false)
    (hl : s.len.toNat ≤ c.cap) (hn : s.nblk.toNat = ceil16 s.len.toNat) (hi : s.i.toNat < s.nblk.toNat)
    (ho : s.outlen.toNat = 16 * s.i.toNat) (hk : s.key = deriveKey c) (hct : BufferForm c s.ct)
    (hob : BufferForm c s.ob) : Inv c s where
  abortedIffErr := by simp [hs, he]
  phOnlyEncrypting _ := hs
  busyFits _ := hl
  blockInHand _ := ⟨hn, by omega, hi, ho⟩
  doneWhole := by simp [hs]
  emptyElsewhere := by simp [hs]
  outlenBlocks := by have := ceil16_fits hl; omega
  keyDerived _ := hk
  cmderrNotBusy _ := hm
  ctForm := hct
  obForm := hob

/-- A finished operation (R26 items 5, 7 and 8). -/
theorem inv_done (hs : s.state = .done) (hp : s.ph = false) (he : s.err = none)
    (ho : s.outlen.toNat = 16 * s.nblk.toNat) (hfit : 16 * s.nblk.toNat ≤ c.cap) (hk : s.key = deriveKey c)
    (hct : BufferForm c s.ct) (hob : BufferForm c s.ob) : Inv c s where
  abortedIffErr := by simp [hs, he]
  phOnlyEncrypting := by simp [hp]
  busyFits := by simp [State.busy, hs, SeqState.busy]
  blockInHand := by simp [hs]
  doneWhole _ := ⟨ho, he⟩
  emptyElsewhere := by simp [hs]
  outlenBlocks := by omega
  keyDerived _ := hk
  cmderrNotBusy := by simp [State.busy, hs, SeqState.busy]
  ctForm := hct
  obForm := hob

/-! ### The effects of a step -/

/-- Item 2 of R26, read in a state that is not `ABORTED`. -/
theorem inv_err_eq_none (h : Inv c s) (hs : s.state ≠ .aborted) : s.err = none := not_not.1 (mt h.abortedIffErr.2 hs)

/-- While not busy the host may change `LEN` and `CMDERR`: what the invariants say of them is then not in force. -/
theorem inv_hostRegisters (h : Inv c s) (hb : s.busy = false) (len : Word) (cmderr : Bool) :
    Inv c { s with len := len, cmderr := cmderr } :=
  { h with
    busyFits := fun hb' => absurd (hb.symm.trans hb') Bool.false_ne_true
    blockInHand := fun hs => absurd hs (by rcases State.not_busy_iff.1 hb with h | h | h <;> simp [h])
    cmderrNotBusy := fun hb' => absurd (hb.symm.trans hb') Bool.false_ne_true }

/-- A host write of a cleartext byte below `CAP` (R42). -/
theorem inv_writeCt (h : Inv c s) {a : Nat} (ha : a < c.cap) (v : Byte) : Inv c (s.writeCt a v) :=
  { h with ctForm := BufferForm.set h.ctForm ha v }

/-- `ALLOC` (R104) puts an operation whose key is derived before block 0, or ends it where there is no block. -/
theorem inv_alloc (h : Inv c s) (hs : s.state = .derive) (hp : s.ph = false) (hk : s.key = deriveKey c) :
    Inv c s.alloc := by
  have hb : s.busy = true := State.busy_iff.2 (.inr (.inl hs))
  have he : s.err = none := inv_err_eq_none h (by simp [hs])
  have hl := h.busyFits hb
  have hn : s.alloc.nblk.toNat = ceil16 s.length := toNat_nblk hl
  by_cases h0 : s.alloc.nblk = 0
  · exact inv_done (if_pos h0) hp he (by rw [h0]; rfl) (by rw [h0]; exact Nat.zero_le _) hk h.ctForm h.obForm
  · have hpos : 0 < s.alloc.nblk.toNat := Nat.pos_of_ne_zero fun hz => h0 (BitVec.eq_of_toNat_eq hz)
    exact inv_encrypting (if_neg h0) he (h.cmderrNotBusy hb) hl hn hpos rfl hk h.ctForm h.obForm

/-- `DERIVE` (R95) writes the key that item 8 of R26 asks for, then allocates. -/
theorem inv_derive (h : Inv c s) (hs : s.state = .derive) (hp : s.ph = false) :
    Inv c { s with key := deriveKey c }.alloc :=
  inv_alloc { h with keyDerived := fun _ => rfl } hs hp rfl

/-- The request of `BUILD` (R107) may be outstanding, since the operation has a block in hand. -/
theorem inv_request (h : Inv c s) (hs : s.state = .encrypting) : Inv c { s with ph := true } :=
  { h with phOnlyEncrypting := fun _ => hs }

/-- The success arm of `RESP` (R121) moves on to the next block, or ends the operation after the last. -/
theorem inv_respOk (h : Inv c s) (hs : s.state = .encrypting) (b : Block) :
    Inv c { s.writeOb (16 * s.i.toNat) b with
      outlen := s.outlen + 16
      ph := false
      i := s.i + 1
      state := if s.i + 1 = s.nblk then .done else .encrypting } := by
  have hb : s.busy = true := State.busy_iff.2 (.inr (.inr hs))
  have he : s.err = none := inv_err_eq_none h (by simp [hs])
  have hk := h.keyDerived (.inl hs)
  have hl := h.busyFits hb
  have hfit := ceil16_fits hl
  obtain ⟨hn, -, hi, ho⟩ := h.blockInHand hs
  have hob : BufferForm c (s.ob.write (16 * s.i.toNat) b.toList) := BufferForm.write h.obForm (by simp; omega)
  have hi' : (s.i + 1).toNat = s.i.toNat + 1 := by have := s.nblk.isLt; simp; omega
  have ho' : (s.outlen + 16).toNat = 16 * (s.i + 1).toNat := by have := cap_le c; simp at hi' ⊢; omega
  by_cases hlast : s.i + 1 = s.nblk
  · have hwhole : (s.outlen + 16).toNat = 16 * s.nblk.toNat := by rw [← hlast, ho']
    have hroom : 16 * s.nblk.toNat ≤ c.cap := by rw [hn]; exact hfit
    exact inv_done (if_pos hlast) rfl he hwhole hroom hk h.ctForm hob
  · refine inv_encrypting (if_neg hlast) he (h.cmderrNotBusy hb) hl hn ?_ ho' hk h.ctForm hob
    have : (s.i + 1).toNat ≠ s.nblk.toNat := fun e => hlast (BitVec.eq_of_toNat_eq e)
    show (s.i + 1).toNat < s.nblk.toNat
    omega

/-- Every effect of a step keeps the invariants. -/
theorem inv_effect (h : Inv Config.hw s) (e : Effect s t) : Inv Config.hw t := by
  cases e with
  | nothing => exact h
  | reply r => exact inv_frame h ..
  | index v _ => exact inv_frame h ..
  | ctx level => exact inv_frame h ..
  | len v hb => exact inv_hostRegisters h hb v s.cmderr
  | cmdError hb => exact inv_hostRegisters h hb s.len true
  | getid hb => exact inv_frame (inv_hostRegisters h hb s.len false) ..
  | ctWrite a v _ ha => exact inv_writeCt h ha v
  | accept _ hl => exact inv_beforeBlocks (.inl rfl) rfl rfl rfl hl rfl h.ctForm h.obForm
  | refuse _ _ => exact inv_abort h.ctForm h.obForm
  | ready hs hp _ =>
    have hb : s.busy = true := State.busy_iff.2 (.inl hs)
    have he : s.err = none := inv_err_eq_none h (by simp [hs])
    exact inv_beforeBlocks (.inr rfl) hp he (h.cmderrNotBusy hb) (h.busyFits hb)
      (h.emptyElsewhere (by simp [hs]) (by simp [hs])) h.ctForm h.obForm
  | notReady _ _ _ => exact inv_abort h.ctForm h.obForm
  | derive hs hp => exact inv_frame (inv_derive h hs hp) ..
  | build hs _ => exact inv_frame (inv_request h hs) ..
  | respOk hs _ _ => exact inv_frame (inv_respOk h hs _) ..
  | respFail _ _ => exact inv_abort h.ctForm h.obForm
  | reset => exact inv_frame (inv_reset _) ..

/-- Settles O41: a step is an effect on the state with the move taken out of store, which the invariants do not see. -/
theorem stepKeepsInvariants : Obligations.StepKeepsInvariants :=
  fun _ _ h hstep => inv_effect (inv_frame h ..) (step_effect hstep)

/-- Settles O3: `Progress` speaks of running operations and outstanding requests only, and reset leaves neither. -/
theorem resetSatisfiesInvariants : Obligations.ResetSatisfiesInvariants :=
  ⟨inv_reset _, nofun, nofun⟩

end Sys2Proof.Machine
end

section
/-! PROOFS. Which agent's move changes which register (R11): for each move, the registers it may change are named, and
no other changes. -/

namespace Sys2Proof.Machine

open Sys2Proof

variable {s t : State} {m : Move}

/-- The host's write of a command word to `CMD`, taken while not busy (R46, R47). -/
abbrev CommandTaken (m : Move) (s : State) (v : Word) : Prop := s.busy = false ∧ m = .host (.write32 0x00000 v)

/-- A response that is owed (R120). -/
abbrev ResponseTaken (m : Move) (s : State) (ok : Bool) : Prop := s.state = .encrypting ∧ s.ph = true ∧ m = .prim ok

/-- The writers of the table of R11: a register that differs in `t` was changed by one of its writers, which made the move
`m` in `s`. The default of each field proves it of a register that the move leaves as it is. -/
structure OnlyWritersChange (m : Move) (s t : State) : Prop where
  operands : ¬SameOperands Config.hw s t → s.busy = false ∧ ∃ x, m = .host x := by
    exact fun h => absurd ⟨rfl, rfl, fun _ => rfl⟩ h
  idword : t.idword ≠ s.idword → CommandTaken m s 0x00000001 := by exact absurd rfl
  cmderr : t.cmderr ≠ s.cmderr → s.busy = false ∧ ∃ v, m = .host (.write32 0x00000 v) := by exact absurd rfl
  err : t.err ≠ s.err → CommandTaken m s 0x00000002 ∨ (s.state = .ctxcheck ∧ m = .ctrl) ∨ ResponseTaken m s false := by
    exact absurd rfl
  outlen : t.outlen ≠ s.outlen → CommandTaken m s 0x00000002 ∨
      ((s.state = .ctxcheck ∨ s.state = .derive) ∧ m = .ctrl) ∨
      (s.state = .encrypting ∧ s.ph = true ∧ ∃ ok, m = .prim ok) := by exact absurd rfl
  state : t.state ≠ s.state → CommandTaken m s 0x00000002 ∨
      ((s.state = .ctxcheck ∨ s.state = .derive) ∧ m = .ctrl) ∨
      (s.state = .encrypting ∧ s.ph = true ∧ ∃ ok, m = .prim ok) := by exact absurd rfl
  ph : t.ph ≠ s.ph → CommandTaken m s 0x00000002 ∨ (s.state = .encrypting ∧ s.ph = false ∧ m = .ctrl) ∨
      (s.state = .encrypting ∧ s.ph = true ∧ ∃ ok, m = .prim ok) := by exact absurd rfl
  keyNblk : t.key ≠ s.key ∨ t.nblk ≠ s.nblk → s.state = .derive ∧ m = .ctrl := by
    exact fun h => h.elim (absurd rfl) (absurd rfl)
  iblk : t.iblk ≠ s.iblk → s.state = .encrypting ∧ s.ph = false ∧ m = .ctrl := by exact absurd rfl
  oblk : t.oblk ≠ s.oblk → s.state = .encrypting ∧ ((s.ph = false ∧ m = .ctrl) ∨ (s.ph = true ∧ m = .prim true)) := by
    exact absurd rfl
  i : t.i ≠ s.i → (s.state = .derive ∧ m = .ctrl) ∨ ResponseTaken m s true := by exact absurd rfl
  ob : ¬SameOb Config.hw s t → ResponseTaken m s true := by exact fun h => absurd (fun _ => rfl) h

/-- A command word, offered while not busy (R46, R74). -/
theorem offerCommand_onlyWriters {v : Word} (hb : s.busy = false) (h : offerCommand s v = .next t) :
    OnlyWritersChange (.host (.write32 0x00000 v)) s t := by
  cases hd : decodeCmd v with
  | error e =>
    simp only [offerCommand, hd] at h
    cases h
    exact { cmderr := fun _ => ⟨hb, v, rfl⟩ }
  | ok i =>
    rw [offerCommand_of_decodeCmd hd] at h
    rcases decodeCmd_ok hd with ⟨rfl, rfl⟩ | ⟨rfl, rfl⟩
    · rw [exec_getid hb] at h
      cases h
      exact { idword := fun _ => ⟨hb, rfl⟩, cmderr := fun _ => ⟨hb, _, rfl⟩ }
    · by_cases hl : s.length ≤ Config.hw.cap
      case' pos => rw [exec_encrypt_accept hb hl] at h
      case' neg => rw [exec_encrypt_refuse hb (Nat.not_le.1 hl)] at h
      all_goals
        cases h
        exact { cmderr := fun _ => ⟨hb, _, rfl⟩, err := fun _ => .inl ⟨hb, rfl⟩, outlen := fun _ => .inl ⟨hb, rfl⟩
                state := fun _ => .inl ⟨hb, rfl⟩, ph := fun _ => .inl ⟨hb, rfl⟩ }

/-- Only offset 0 is `CMD` (R41). -/
theorem eq_zero_of_regionOf_cmd {c : Config} {off : Offset} (h : regionOf c off = .reg .cmd) : off = 0 := by
  simp only [regionOf] at h
  split at h
  · next h0 => exact BitVec.eq_of_toNat_eq h0
  · repeat' split at h
    all_goals simp at h

/-- A word write elsewhere than to `CMD` changes at most `INDEX` or `LEN` (R46). -/
theorem hostWrite32_operands {off : Offset} (h0 : off ≠ 0) (v : Word) :
    ∃ index len, hostWrite32 s off v = .next { s with index := index, len := len } := by
  by_cases hb : s.busy = true
  · exact ⟨_, _, (hostStep_write_busy hb off).1 v⟩
  · simp only [hostWrite32, if_neg hb]
    split
    case h_1 hr => exact absurd (eq_zero_of_regionOf_cmd hr) h0
    all_goals exact ⟨_, _, rfl⟩

/-- A byte write changes at most `CT` (R42, R43). -/
theorem hostWrite8_operands (c : Config) (off : Offset) (v : Byte) :
    ∃ ct, hostWrite8 c s off v = { s with ct := ct } := by
  simp only [hostWrite8]
  repeat' split
  all_goals exact ⟨_, rfl⟩

/-- A host transaction (R44 to R47). -/
theorem hostStep_onlyWriters {x : HostTxn} (h : hostStep x s = .next t) : OnlyWritersChange (.host x) s t := by
  cases x with
  | read32 off => cases h; exact {}
  | read8 off => cases h; exact {}
  | write32 off v =>
    by_cases hb : s.busy = true
    · rw [(hostStep_write_busy hb off).1] at h; cases h; exact {}
    · rw [Bool.not_eq_true] at hb
      by_cases h0 : off = 0
      · subst h0
        rw [hostStep_write_cmd hb] at h
        exact offerCommand_onlyWriters hb h
      · obtain ⟨index, len, hw⟩ := hostWrite32_operands (s := s) h0 v
        cases hw.symm.trans h
        exact { operands := fun _ => ⟨hb, _, rfl⟩ }
  | write8 off v =>
    by_cases hb : s.busy = true
    · rw [(hostStep_write_busy hb off).2] at h; cases h; exact {}
    · obtain ⟨ct, hw⟩ := hostWrite8_operands (s := s) Config.hw off v
      rw [hostStep, hw] at h
      cases h
      exact { operands := fun _ => ⟨eq_false_of_ne_true hb, _, rfl⟩ }

/-- A micro-operation of `CTRL` (R78). -/
theorem ctrlStep_onlyWriters (h : ctrlStep s = .next t) : OnlyWritersChange .ctrl s t := by
  by_cases hi : s.busy = false ∨ s.ph = true
  · rw [ctrlStep_idle hi] at h; cases h; exact {}
  · simp only [not_or, Bool.not_eq_false, Bool.not_eq_true] at hi
    obtain ⟨hb, hp⟩ := hi
    rcases State.busy_iff.1 hb with hs | hs | hs
    · rw [ctrlStep_ctxcheck hs hp] at h
      cases hc : s.ctxReady
      · rw [exec_ctxchk_notReady hs hp hc] at h
        cases h
        exact { err := fun _ => .inr (.inl ⟨hs, rfl⟩), outlen := fun _ => .inr (.inl ⟨.inl hs, rfl⟩)
                state := fun _ => .inr (.inl ⟨.inl hs, rfl⟩), ph := fun hne => absurd hp.symm hne }
      · rw [exec_ctxchk_ready hs hp hc] at h
        cases h
        exact { state := fun _ => .inr (.inl ⟨.inl hs, rfl⟩) }
    · rw [ctrlStep_derive hs hp, exec_derive hs hp] at h
      cases h
      exact { outlen := fun _ => .inr (.inl ⟨.inr hs, rfl⟩), state := fun _ => .inr (.inl ⟨.inr hs, rfl⟩)
              keyNblk := fun _ => ⟨hs, rfl⟩, i := fun _ => .inl ⟨hs, rfl⟩ }
    · rw [ctrlStep_build hs hp] at h
      cases hr : inBuffer Config.hw (16 * s.i.toNat) (avail s.length s.i.toNat)
      · rw [exec_build_fault hs hp hr] at h; cases h
      · rw [exec_build hs hp hr] at h
        cases h
        exact { ph := fun _ => .inr (.inl ⟨hs, hp, rfl⟩), iblk := fun _ => ⟨hs, hp, rfl⟩
                oblk := fun _ => ⟨hs, .inl ⟨hp, rfl⟩⟩ }

/-- A response of `PRIM` (R120). -/
theorem primStep_onlyWriters {ok : Bool} (h : primStep ok s = .next t) : OnlyWritersChange (.prim ok) s t := by
  cases ho : s.owed
  · rw [primStep_notOwed ho] at h; cases h
  · obtain ⟨hs, hp⟩ := State.owed_iff.1 ho
    rw [primStep_owed ho] at h
    cases ok
    · rw [if_neg (by simp), exec_respFail ho] at h
      cases h
      exact { err := fun _ => .inr (.inr ⟨hs, hp, rfl⟩), outlen := fun _ => .inr (.inr ⟨hs, hp, _, rfl⟩)
              state := fun _ => .inr (.inr ⟨hs, hp, _, rfl⟩), ph := fun _ => .inr (.inr ⟨hs, hp, _, rfl⟩) }
    · rw [if_pos rfl] at h
      cases hr : inBuffer Config.hw (16 * s.i.toNat) 16
      · rw [exec_respOk_fault ho hr] at h; cases h
      · rw [exec_respOk ho hr] at h
        cases h
        exact { outlen := fun _ => .inr (.inr ⟨hs, hp, _, rfl⟩), state := fun _ => .inr (.inr ⟨hs, hp, _, rfl⟩)
                ph := fun _ => .inr (.inr ⟨hs, hp, _, rfl⟩), oblk := fun _ => ⟨hs, .inr ⟨hp, rfl⟩⟩
                i := fun _ => .inr ⟨hs, hp, rfl⟩, ob := fun _ => ⟨hs, hp, rfl⟩ }

/-- Every move but reset. -/
theorem perform_onlyWriters (hm : m ≠ .reset) (h : perform m s = .next t) : OnlyWritersChange m s t := by
  cases m with
  | host x => exact hostStep_onlyWriters h
  | ctrl => exact ctrlStep_onlyWriters h
  | prim ok => exact primStep_onlyWriters h
  | ctx level => cases h; exact {}
  | reset => exact absurd rfl hm

/-- Settles O35: taking the move out of store changes no register, and the move itself only those of its agent. -/
theorem eachRegisterHasItsWriters : Obligations.EachRegisterHasItsWriters := by
  intro s t h hm
  obtain ⟨operands, idword, cmderr, err, outlen, state, ph, keyNblk, iblk, oblk, i, ob⟩ :=
    perform_onlyWriters (s := s.pop) hm h
  exact ⟨operands, idword, cmderr, err, outlen, state, ph, keyNblk, iblk, oblk, i, ob⟩

end Sys2Proof.Machine
end

section
/-! PROOFS. The host window: where it stands on the bus (R41, R6), and what each of its offsets is (R41). -/

namespace Sys2Proof.Machine

open Sys2Proof

variable {c : Config} {off : Offset}

/-! ### The window on the bus -/

/-- A bus address inside the window selects its distance from `BASE`. -/
theorem offsetOf_inside {addr : Nat} (h : c.base ≤ addr ∧ addr < c.base + 0x40000) :
    c.offsetOf addr = some (BitVec.ofNat 18 (addr - c.base)) := if_pos h

/-- A bus address outside the window selects nothing. -/
theorem offsetOf_outside {addr : Nat} (h : ¬(c.base ≤ addr ∧ addr < c.base + 0x40000)) : c.offsetOf addr = none :=
  if_neg h

/-- Settles O26: an offset has 18 bits, so the window holds all of them and no more. -/
theorem windowStandsAtBase : Obligations.WindowStandsAtBase := by
  refine ⟨?selected, ?unique, ?none⟩
  case selected =>
    intro c off
    have hin : c.base ≤ c.busAddress off ∧ c.busAddress off < c.base + 0x40000 :=
      ⟨Nat.le_add_right .., Nat.add_lt_add_left off.isLt _⟩
    rw [offsetOf_inside hin, Config.busAddress, Nat.add_sub_cancel_left, BitVec.ofNat_toNat, BitVec.setWidth_eq]
  case unique =>
    intro c addr off h
    by_cases hin : c.base ≤ addr ∧ addr < c.base + 0x40000
    · rw [offsetOf_inside hin] at h
      cases h
      rw [Config.busAddress, BitVec.toNat_ofNat, Nat.mod_eq_of_lt (by omega)]
      omega
    · rw [offsetOf_outside hin] at h
      cases h
  case none =>
    intro c addr
    by_cases hin : c.base ≤ addr ∧ addr < c.base + 0x40000
    · simp only [offsetOf_inside hin, reduceCtorEq, false_iff]
      omega
    · simp only [offsetOf_outside hin, true_iff]
      omega

/-! ### The map of the window -/

@[simp] theorem regionOf_offset (c : Config) (r : HostReg) : regionOf c r.offset = .reg r := by cases r <;> rfl

/-- Below the apertures there are the six registers and nothing else. -/
theorem regionOf_below_apertures (c : Config) (h : off.toNat < 0x10000) :
    (∃ r : HostReg, off = r.offset) ∨ regionOf c off = .reserved := by
  refine or_iff_not_imp_left.2 fun hr => ?_
  have noReg (r : HostReg) : ¬off.toNat = r.offset.toNat := fun e => hr ⟨r, BitVec.eq_of_toNat_eq e⟩
  exact (if_neg (noReg .cmd)).trans <| (if_neg (noReg .status)).trans <| (if_neg (noReg .index)).trans <|
    (if_neg (noReg .len)).trans <| (if_neg (noReg .idword)).trans <| (if_neg (noReg .outlen)).trans <| if_pos h

/-- Everything an offset can be, with the place it then has. -/
theorem regionOf_cases (c : Config) (off : Offset) :
    (∃ r : HostReg, regionOf c off = .reg r ∧ off = r.offset) ∨
    (∃ a, regionOf c off = .ctByte a ∧ off.toNat = 0x10000 + a ∧ a < c.cap) ∨
    (∃ a, regionOf c off = .obByte a ∧ off.toNat = 0x20000 + a ∧ a < c.cap) ∨
    regionOf c off = .reserved := by
  by_cases hlow : off.toNat < 0x10000
  · rcases regionOf_below_apertures c hlow with ⟨r, rfl⟩ | hres
    · exact .inl ⟨r, regionOf_offset c r, rfl⟩
    · exact .inr (.inr (.inr hres))
  · rw [regionOf_above_registers c (Nat.not_lt.1 hlow)]
    split_ifs with hct hfit hob hfit
    · exact .inr (.inl ⟨_, rfl, by omega, hfit⟩)
    · exact .inr (.inr (.inr rfl))
    · exact .inr (.inr (.inl ⟨_, rfl, by omega, hfit⟩))
    · exact .inr (.inr (.inr rfl))
    · exact .inr (.inr (.inr rfl))

theorem regionOf_eq_reg_iff {r : HostReg} : regionOf c off = .reg r ↔ off = r.offset := by
  refine ⟨fun h => ?_, fun h => h ▸ regionOf_offset c r⟩
  rcases regionOf_cases c off with ⟨r', hr, hoff⟩ | ⟨a, hr, -⟩ | ⟨a, hr, -⟩ | hr <;> cases hr.symm.trans h
  exact hoff

theorem regionOf_eq_ctByte_iff {a : Nat} : regionOf c off = .ctByte a ↔ off.toNat = 0x10000 + a ∧ a < c.cap := by
  constructor
  · intro h
    rcases regionOf_cases c off with ⟨r, hr, -⟩ | ⟨a', hr, hoff⟩ | ⟨a', hr, -⟩ | hr <;> cases hr.symm.trans h
    exact hoff
  · rintro ⟨hoff, ha⟩
    rw [← regionOf_ct ha, ← hoff, BitVec.ofNat_toNat, BitVec.setWidth_eq]

theorem regionOf_eq_obByte_iff {a : Nat} : regionOf c off = .obByte a ↔ off.toNat = 0x20000 + a ∧ a < c.cap := by
  constructor
  · intro h
    rcases regionOf_cases c off with ⟨r, hr, -⟩ | ⟨a', hr, -⟩ | ⟨a', hr, hoff⟩ | hr <;> cases hr.symm.trans h
    exact hoff
  · rintro ⟨hoff, ha⟩
    rw [← regionOf_ob ha, ← hoff, BitVec.ofNat_toNat, BitVec.setWidth_eq]

/-- Settles O27, one equivalence for each kind of place. -/
theorem windowMapIsAsTabled : Obligations.WindowMapIsAsTabled :=
  fun _ _ => ⟨fun _ => regionOf_eq_reg_iff, fun _ => regionOf_eq_ctByte_iff, fun _ => regionOf_eq_obByte_iff⟩

end Sys2Proof.Machine
end

section
/-! PROOFS. The host's transactions, place by place (R42 to R47, R53), and the result that a byte read shows (R57, R125,
R126). -/

namespace Sys2Proof.Machine

open Sys2Proof

variable {c : Config} {s t : State} {off : Offset}

/-! ### Reads -/

/-- A word read at a register's offset returns the register (R45). -/
theorem hostRead32_reg (c : Config) (s : State) (r : HostReg) : hostRead32 c s r.offset = s.regRead r := by
  simp only [hostRead32, regionOf_offset]

/-- A word read returns zero where no register stands (R45). -/
theorem hostRead32_elsewhere (h : ∀ r : HostReg, off ≠ r.offset) : hostRead32 c s off = 0 := by
  simp only [hostRead32]
  split
  case h_1 r hr => exact absurd (regionOf_eq_reg_iff.1 hr) (h r)
  all_goals rfl

/-- A byte read in the `CT` aperture (R42). -/
theorem hostRead8_ct {a : Nat} (hoff : off.toNat = 0x10000 + a) (ha : a < c.cap) :
    hostRead8 c s off = s.ctByte c a := by
  simp only [hostRead8, regionOf_eq_ctByte_iff.2 ⟨hoff, ha⟩]

/-- A byte read in the `OB` aperture goes through the gate (R43). -/
theorem hostRead8_ob {a : Nat} (hoff : off.toNat = 0x20000 + a) (ha : a < c.cap) :
    hostRead8 c s off = if s.state = .done ∧ a < s.outlen.toNat then s.obByte c a else 0 := by
  simp only [hostRead8, regionOf_eq_obByte_iff.2 ⟨hoff, ha⟩]

/-- A byte read returns zero outside the two apertures (R44). -/
theorem hostRead8_elsewhere (h : ∀ a, a < c.cap → off.toNat ≠ 0x10000 + a ∧ off.toNat ≠ 0x20000 + a) :
    hostRead8 c s off = 0 := by
  rcases regionOf_cases c off with ⟨r, hr, -⟩ | ⟨a, -, hoff, ha⟩ | ⟨a, -, hoff, ha⟩ | hr
  · simp only [hostRead8, hr]
  · exact absurd hoff (h a ha).1
  · exact absurd hoff (h a ha).2
  · simp only [hostRead8, hr]

/-- Settles O30: the reply is what `HostRead32` returns, which the schedule does not enter. -/
theorem wordReadReturnsRegister : Obligations.WordReadReturnsRegister := by
  intro s off rest hs
  refine ⟨hostRead32 Config.hw s off, ?step, ?cmd, ?status, ?index, ?len, ?idword, ?outlen, ?elsewhere⟩
  case step =>
    have hread : hostRead32 Config.hw { s with schedule := rest } off = hostRead32 Config.hw s off :=
      hostRead32_congr (fun r => by cases r <;> rfl) off
    rw [step_cons hs, ← hread]
    rfl
  case cmd => exact fun h => h ▸ hostRead32_reg _ s .cmd
  case status => exact fun h => h ▸ hostRead32_reg _ s .status
  case index => exact fun h => h ▸ hostRead32_reg _ s .index
  case len => exact fun h => h ▸ hostRead32_reg _ s .len
  case idword => exact fun h => h ▸ hostRead32_reg _ s .idword
  case outlen => exact fun h => h ▸ hostRead32_reg _ s .outlen
  case elsewhere =>
    intro h
    refine hostRead32_elsewhere fun r hr => ?_
    rw [hr] at h
    revert h
    cases r <;> decide

/-- Settles O31: the reply is what `HostRead8` returns, which the schedule does not enter. -/
theorem byteReadGoesThroughTheGate : Obligations.ByteReadGoesThroughTheGate := by
  intro s off rest hs
  refine ⟨hostRead8 Config.hw s off, ?step, fun a ha hoff => hostRead8_ct hoff ha,
    fun a ha hoff => hostRead8_ob hoff ha, hostRead8_elsewhere⟩
  have hread : hostRead8 Config.hw { s with schedule := rest } off = hostRead8 Config.hw s off :=
    hostRead8_congr rfl rfl rfl rfl off
  rw [step_cons hs, ← hread]
  rfl

/-! ### Writes -/

/-- A write to `INDEX` while not busy (R46). -/
theorem hostWrite32_index (hb : s.busy = false) (v : Word) :
    hostWrite32 s HostReg.index.offset v = .next { s with index := v } := by
  simp only [hostWrite32, hb, regionOf_offset, Bool.false_eq_true, if_false]

/-- A write to `LEN` while not busy (R46). -/
theorem hostWrite32_len (hb : s.busy = false) (v : Word) :
    hostWrite32 s HostReg.len.offset v = .next { s with len := v } := by
  simp only [hostWrite32, hb, regionOf_offset, Bool.false_eq_true, if_false]

/-- A word write elsewhere than to `CMD`, `INDEX` and `LEN` has no effect (R46). -/
theorem hostWrite32_elsewhere (hcmd : off ≠ HostReg.cmd.offset) (hindex : off ≠ HostReg.index.offset)
    (hlen : off ≠ HostReg.len.offset) (v : Word) : hostWrite32 s off v = .next s := by
  by_cases hb : s.busy = true
  · exact (hostStep_write_busy hb off).1 v
  · simp only [hostWrite32, if_neg hb]
    split
    case h_1 hr => exact absurd (regionOf_eq_reg_iff.1 hr) hcmd
    case h_3 hr => exact absurd (regionOf_eq_reg_iff.1 hr) hindex
    case h_4 hr => exact absurd (regionOf_eq_reg_iff.1 hr) hlen
    all_goals rfl

/-- Every command word but the two of R73 performs the illegal-command rule (R74, R146). -/
theorem offerCommand_illegal {v : Word} (h₁ : v ≠ 1) (h₂ : v ≠ 2) : offerCommand s v = .next s.cmdError := by
  cases hd : decodeCmd v with
  | error e => simp only [offerCommand, hd]
  | ok i =>
    rcases decodeCmd_ok hd with ⟨-, rfl⟩ | ⟨-, rfl⟩
    · exact absurd rfl h₁
    · exact absurd rfl h₂

/-- Settles O32: a write to `CMD` offers the word as a command, and the other offsets are told apart by the map. -/
theorem wordWriteWhenNotBusy : Obligations.WordWriteWhenNotBusy := by
  intro s off v rest hb hs
  have hb' : ({ s with schedule := rest } : State).busy = false := hb
  rw [step_cons hs]
  refine ⟨?index, ?len, ?getid, ?encrypt, ?illegal, ?elsewhere⟩
  case index =>
    rintro rfl
    exact hostWrite32_index hb' v
  case len =>
    rintro rfl
    exact hostWrite32_len hb' v
  case getid =>
    rintro rfl rfl
    exact (hostStep_write_cmd hb' _).trans (offerCommand_of_decodeCmd decodeCmd_getid)
  case encrypt =>
    rintro rfl rfl
    exact (hostStep_write_cmd hb' _).trans (offerCommand_of_decodeCmd decodeCmd_encrypt)
  case illegal =>
    rintro rfl h₁ h₂
    exact (hostStep_write_cmd hb' v).trans (offerCommand_illegal h₁ h₂)
  case elsewhere => exact fun hcmd hindex hlen => hostWrite32_elsewhere hcmd hindex hlen v

/-- A byte write in the `CT` aperture while not busy (R42). -/
theorem hostWrite8_ct (hb : s.busy = false) {a : Nat} (hoff : off.toNat = 0x10000 + a) (ha : a < c.cap) (v : Byte) :
    hostWrite8 c s off v = s.writeCt a v := by
  simp only [hostWrite8, hb, regionOf_eq_ctByte_iff.2 ⟨hoff, ha⟩, Bool.false_eq_true, if_false]

/-- A byte write outside the `CT` aperture has no effect (R43, R44). -/
theorem hostWrite8_elsewhere (h : ∀ a, a < c.cap → off.toNat ≠ 0x10000 + a) (v : Byte) :
    hostWrite8 c s off v = s := by
  simp only [hostWrite8]
  split
  · rfl
  · split
    case h_2 a hr =>
      obtain ⟨hoff, ha⟩ := regionOf_eq_ctByte_iff.1 hr
      exact absurd hoff (h a ha)
    all_goals rfl

/-- Settles O33: the write of one cleartext byte, or none. -/
theorem byteWriteWhenNotBusy : Obligations.ByteWriteWhenNotBusy := by
  intro s off v rest hb hs
  have hb' : ({ s with schedule := rest } : State).busy = false := hb
  refine ⟨hostWrite8 Config.hw { s with schedule := rest } off v, step_cons hs, ?frame, ?inside, ?outside⟩
  case frame =>
    obtain ⟨ct, h⟩ := hostWrite8_operands (s := { s with schedule := rest }) Config.hw off v
    rw [h]
  case inside =>
    intro a ha hoff
    have hct := State.ctByte_writeCt Config.hw { s with schedule := rest } a v
    rw [hostWrite8_ct hb' hoff ha]
    exact ⟨(hct a).trans (if_pos rfl), fun x hx => (hct x).trans (if_neg hx)⟩
  case outside =>
    intro h
    rw [hostWrite8_elsewhere h]

/-- Settles O34: a busy machine drops the write, and taking the move out of store does not make it busy or idle. -/
theorem writesDroppedWhileBusy : Obligations.WritesDroppedWhileBusy := by
  intro s off rest hb
  have hdrop := hostStep_write_busy (s := { s with schedule := rest }) hb off
  exact ⟨fun v hs => (step_cons hs).trans (hdrop.1 v), fun v hs => (step_cons hs).trans (hdrop.2 v)⟩

/-! ### The result behind the gate -/

/-- A byte read depends on the bytes of `OB` only where the gate is open (R43). -/
theorem hostRead8_congr_gate (hct : t.ctByte c = s.ctByte c) (hs : t.state = s.state) (ho : t.outlen = s.outlen)
    (hob : s.state = .done → ∀ a, a < s.outlen.toNat → t.obByte c a = s.obByte c a) (off : Offset) :
    hostRead8 c t off = hostRead8 c s off := by
  simp only [hostRead8, hct, hs, ho]
  split
  case h_3 a hr => exact ite_congr rfl (fun hgate => hob hgate.1 a hgate.2) fun _ => rfl
  all_goals rfl

/-- Settles O39: no register is a byte of `OB`, and the gate lets no other byte of `OB` through. -/
theorem discardedBytesUnreadable : Obligations.DiscardedBytesUnreadable := by
  intro s t ht hob off
  have hreg : ∀ r, t.regRead r = s.regRead r := fun r => by rw [ht]; cases r <;> rfl
  have hct : t.ctByte Config.hw = s.ctByte Config.hw := by rw [ht]; rfl
  have hstate : t.state = s.state := by rw [ht]
  have houtlen : t.outlen = s.outlen := by rw [ht]
  exact ⟨hostRead32_congr hreg off, hostRead8_congr_gate hct hstate houtlen hob off⟩

/-- The flattened result is made of bytes of `OB` behind the gate (R125), all of which exist. -/
theorem flattenedResult_congr (hs : t.state = s.state) (ho : t.outlen = s.outlen) (hob : SameOb c s t)
    (hcap : s.outlen.toNat ≤ c.cap) : t.flattenedResult c = s.flattenedResult c := by
  simp only [State.flattenedResult, ho]
  refine memRead_congr fun k hk => ?_
  have hk' : 0 + k < c.cap := by omega
  have hoff : (BitVec.ofNat 18 (0x20000 + (0 + k))).toNat = 0x20000 + (0 + k) := by
    have := cap_le c
    rw [BitVec.toNat_ofNat, Nat.mod_eq_of_lt (by omega)]
  rw [hostRead8_ob hoff hk', hostRead8_ob hoff hk', hs, ho, hob]

/-- The tagged result is made of `STATE`, `ERR` and the first `OUTLEN` bytes of `OB` (R125). -/
theorem taggedResult_congr (hs : t.state = s.state) (he : t.err = s.err) (ho : t.outlen = s.outlen)
    (hob : SameOb c s t) : t.taggedResult c = s.taggedResult c := by
  simp only [State.taggedResult, hs, he, ho, funext hob]

/-- Settles O36: of the writers of `STATE`, `ERR`, `OUTLEN` and `OB` (R11), all but `ENCRYPT` need a busy machine. -/
theorem resultStaysUntilNextEncrypt : Obligations.ResultStaysUntilNextEncrypt := by
  intro s t hb hcap hstep hreset hcmd
  have writers : OnlyWritersChange s.nextMove s.pop t := perform_onlyWriters hreset hstep
  obtain ⟨notCtxcheck, notDerive, notEncrypting⟩ :
      s.state ≠ .ctxcheck ∧ s.state ≠ .derive ∧ s.state ≠ .encrypting := by
    rcases State.not_busy_iff.1 hb with h | h | h <;> simp [h]
  have hs : t.state = s.state := by
    by_contra hne
    rcases writers.state hne with ⟨-, h⟩ | ⟨h | h, -⟩ | ⟨h, -⟩
    · exact hcmd h
    · exact notCtxcheck h
    · exact notDerive h
    · exact notEncrypting h
  have he : t.err = s.err := by
    by_contra hne
    rcases writers.err hne with ⟨-, h⟩ | ⟨h, -⟩ | ⟨h, -⟩
    · exact hcmd h
    · exact notCtxcheck h
    · exact notEncrypting h
  have ho : t.outlen = s.outlen := by
    by_contra hne
    rcases writers.outlen hne with ⟨-, h⟩ | ⟨h | h, -⟩ | ⟨h, -⟩
    · exact hcmd h
    · exact notCtxcheck h
    · exact notDerive h
    · exact notEncrypting h
  have hob : SameOb Config.hw s t := by
    by_contra hne
    exact notEncrypting (writers.ob hne).1
  exact ⟨hs, he, ho, flattenedResult_congr hs ho hob hcap, taggedResult_congr hs he ho hob⟩

end Sys2Proof.Machine
end

section
/-! PROOFS. The device identifier's bytes and the key (R48, R93), and the formats of the primitive port (R49, R79,
R80). -/

namespace Sys2Proof.Machine

open Sys2Proof

/-- Byte `4*k + j` of the identifier is byte `j` of word `k` (R48, R92). -/
theorem did_word_byte (c : Config) (k j : Fin 4) :
    did c ⟨4 * k.val + j.val, by omega⟩ = wordByte (c.devid k) j.val := by
  have hword : (⟨(4 * k.val + j.val) / 4, by omega⟩ : Fin 4) = k := Fin.ext (by simp only; omega)
  have hbyte : (4 * k.val + j.val) % 4 = j.val := by omega
  simp only [did, hword, hbyte]

/-- Settles O11: the key is a function of the first two words alone. -/
theorem keyIsLowIdentifierBytesTwice : Obligations.KeyIsLowIdentifierBytesTwice := by
  refine ⟨did_word_byte, deriveKey_getElem, fun c d h₀ h₁ => ?_⟩
  simp only [deriveKey, idRead, h₀, h₁]

/-! ### Byte lanes -/

/-- Bit `k` of a block on the port is bit `k mod 8` of byte `k div 8` (R49). -/
theorem packBlock_getLsbD (b : Block) {k : Nat} (hk : k < 128) :
    (packBlock b).getLsbD k = (b[k / 8]'(by omega)).getLsbD (k % 8) := by
  rw [packBlock, BitVec.getLsbD_ofFnLE, dif_pos hk]

/-- Byte `j` of a block lies in bits `[8*j + 7 : 8*j]` (R49). -/
theorem packBlock_lane (b : Block) (j : Fin 16) : (packBlock b).extractLsb' (8 * j.val) 8 = b[j] := by
  refine BitVec.eq_of_getLsbD_eq fun k hk => ?_
  have hdiv : (8 * j.val + k) / 8 = j.val := by omega
  have hmod : (8 * j.val + k) % 8 = k := by omega
  rw [BitVec.getLsbD_extractLsb', decide_eq_true hk, Bool.true_and, packBlock_getLsbD b (by omega)]
  simp only [hdiv, hmod, Fin.getElem_fin]

theorem unpackBlock_packBlock (b : Block) : unpackBlock (packBlock b) = b := by
  refine Vector.ext fun j hj => ?_
  rw [unpackBlock, Vector.getElem_ofFn]
  exact packBlock_lane b ⟨j, hj⟩

theorem packBlock_unpackBlock (v : BitVec 128) : packBlock (unpackBlock v) = v := by
  refine BitVec.eq_of_getLsbD_eq fun k hk => ?_
  have hbit : k % 8 < 8 := Nat.mod_lt k (by decide)
  rw [packBlock_getLsbD _ hk, unpackBlock, Vector.getElem_ofFn, BitVec.getLsbD_extractLsb', decide_eq_true hbit,
    Bool.true_and, Nat.div_add_mod]

/-! ### Requests and responses -/

/-- The key is the low half of a request (R79). -/
theorem packRequest_key (key block : Block) : (packRequest key block).extractLsb' 0 128 = packBlock key :=
  BitVec.extractLsb'_append_eq_right

/-- The plaintext block is the high half of a request (R79). -/
theorem packRequest_block (key block : Block) : (packRequest key block).extractLsb' 128 128 = packBlock block :=
  BitVec.extractLsb'_append_eq_left

theorem unpackRequest_packRequest (key block : Block) : unpackRequest (packRequest key block) = (key, block) := by
  simp only [unpackRequest, packRequest_key, packRequest_block, unpackBlock_packBlock]

/-- The `ok` bit stands above the 128 lanes (R80). -/
theorem packResponse_ok (ok : Bool) (lanes : BitVec 128) : (packResponse ok lanes).getLsbD 128 = ok := by
  rw [packResponse, BitVec.getLsbD_append, if_neg (by decide), Nat.sub_self, BitVec.getLsbD_ofBool, decide_eq_true rfl,
    Bool.true_and]

/-- The ciphertext lanes of a response (R80). -/
theorem packResponse_lanes (ok : Bool) (lanes : BitVec 128) : (packResponse ok lanes).extractLsb' 0 128 = lanes :=
  BitVec.extractLsb'_append_eq_right

/-- What is read from a response: its lanes after success, nothing after failure (R80, V8). -/
theorem unpackResponse_packResponse (ok : Bool) (lanes : BitVec 128) :
    unpackResponse (packResponse ok lanes) = if ok then some (unpackBlock lanes) else none := by
  simp only [unpackResponse, packResponse_ok, packResponse_lanes]

/-- Settles O40: lanes, halves and bits are where the formats put them, so unpacking finds them again. -/
theorem portFormatsLoseNothing : Obligations.PortFormatsLoseNothing := by
  refine ⟨packBlock_lane, unpackBlock_packBlock, packBlock_unpackBlock, unpackRequest_packRequest, ?halves, ?response,
    ?success, ?failure⟩
  case halves => exact fun key block => ⟨packRequest_key key block, packRequest_block key block⟩
  case response => exact fun ok lanes => ⟨packResponse_ok ok lanes, packResponse_lanes ok lanes⟩
  case success =>
    intro ct
    rw [unpackResponse_packResponse, if_pos rfl, unpackBlock_packBlock]
  case failure =>
    intro lanes
    rw [unpackResponse_packResponse, if_neg Bool.false_ne_true]

end Sys2Proof.Machine
end

section
/-! PROOFS. Where a step stops: a buffer access at or above `CAP` (log entry 8), which the invariants rule out, and a
response that is not owed (R54, R56, R120). -/

namespace Sys2Proof.Machine

open Sys2Proof

variable {s : State}

/-! ### Beyond the buffers -/

/-- A stretch of at least one byte that ends above `CAP` does not lie in a buffer (R20, R21). -/
theorem inBuffer_eq_false {c : Config} {a n : Nat} (hn : n ≠ 0) (h : c.cap < a + n) : inBuffer c a n = false := by
  rw [← Bool.not_eq_true, inBuffer_iff]
  omega

/-- Settles O23: the range checks of `BUILD` and `RESP.OK` refuse a stretch that ends above `CAP`. -/
theorem accessBeyondBufferFaults : Obligations.AccessBeyondBufferFaults := by
  refine ⟨fun s hs hp hwindow hbeyond => ?build, fun s hs hp hbeyond => ?respOk⟩
  case build =>
    have hsome : avail s.length s.i.toNat ≠ 0 := by
      have : 16 * s.i.toNat < s.length := hwindow
      simp only [avail]
      omega
    exact exec_build_fault hs hp (inBuffer_eq_false hsome hbeyond)
  case respOk =>
    exact exec_respOk_fault (State.owed_iff.2 ⟨hs, hp⟩) (inBuffer_eq_false (by decide) hbeyond)

/-! ### Steps that go on -/

/-- A command that is offered while not busy goes on, whatever the word (R56, R74). -/
theorem offerCommand_goesOn (hb : s.busy = false) (v : Word) : ∃ t, offerCommand s v = .next t := by
  by_cases h₁ : v = 1
  · subst h₁
    exact ⟨_, (offerCommand_of_decodeCmd decodeCmd_getid).trans (exec_getid hb)⟩
  by_cases h₂ : v = 2
  · subst h₂
    by_cases hl : s.length ≤ Config.hw.cap
    · exact ⟨_, (offerCommand_of_decodeCmd decodeCmd_encrypt).trans (exec_encrypt_accept hb hl)⟩
    · exact ⟨_, (offerCommand_of_decodeCmd decodeCmd_encrypt).trans (exec_encrypt_refuse hb (Nat.not_le.1 hl))⟩
  exact ⟨_, offerCommand_illegal h₁ h₂⟩

/-- Every host transaction completes (R44). -/
theorem hostStep_goesOn (x : HostTxn) (s : State) : ∃ t, hostStep x s = .next t := by
  cases x with
  | read32 off => exact ⟨_, rfl⟩
  | read8 off => exact ⟨_, rfl⟩
  | write8 off v => exact ⟨_, rfl⟩
  | write32 off v =>
    by_cases hb : s.busy = true
    · exact ⟨s, (hostStep_write_busy hb off).1 v⟩
    · rw [Bool.not_eq_true] at hb
      by_cases h0 : off = 0
      · subst h0
        rw [hostStep_write_cmd hb]
        exact offerCommand_goesOn hb v
      · obtain ⟨index, len, hw⟩ := hostWrite32_operands (s := s) h0 v
        exact ⟨_, hw⟩

/-- The window of the block in hand lies in `CT` (R54). -/
theorem inv_window_inBuffer {c : Config} (h : Inv c s) (hs : s.state = .encrypting) :
    inBuffer c (16 * s.i.toNat) (avail s.length s.i.toNat) = true := by
  have hl := h.busyFits (State.busy_iff.2 (.inr (.inr hs)))
  obtain ⟨hn, -, hi, -⟩ := h.blockInHand hs
  have hend : 16 * s.i.toNat + avail s.length s.i.toNat ≤ s.length := window_end (hn ▸ hi)
  exact (inBuffer_iff ..).2 (.inr (hend.trans hl))

/-- The place of the block in hand lies in `OB` (R54). -/
theorem inv_block_inBuffer {c : Config} (h : Inv c s) (hs : s.state = .encrypting) :
    inBuffer c (16 * s.i.toNat) 16 = true := by
  have hfit := ceil16_fits (h.busyFits (State.busy_iff.2 (.inr (.inr hs))))
  obtain ⟨hn, -, hi, -⟩ := h.blockInHand hs
  exact (inBuffer_iff ..).2 (.inr (by omega))

/-- `CTRL` goes on in every state that meets the invariants (R56). -/
theorem ctrlStep_goesOn (h : Inv Config.hw s) : ∃ t, ctrlStep s = .next t := by
  by_cases hi : s.busy = false ∨ s.ph = true
  · exact ⟨s, ctrlStep_idle hi⟩
  · simp only [not_or, Bool.not_eq_false, Bool.not_eq_true] at hi
    obtain ⟨hb, hp⟩ := hi
    rcases State.busy_iff.1 hb with hs | hs | hs
    · cases hc : s.ctxReady
      · exact ⟨_, (ctrlStep_ctxcheck hs hp).trans (exec_ctxchk_notReady hs hp hc)⟩
      · exact ⟨_, (ctrlStep_ctxcheck hs hp).trans (exec_ctxchk_ready hs hp hc)⟩
    · exact ⟨_, (ctrlStep_derive hs hp).trans (exec_derive hs hp)⟩
    · exact ⟨_, (ctrlStep_build hs hp).trans (exec_build hs hp (inv_window_inBuffer h hs))⟩

/-- A response that is owed is taken in every state that meets the invariants (R54, R120). -/
theorem primStep_goesOn (h : Inv Config.hw s) (ho : s.owed = true) (ok : Bool) : ∃ t, primStep ok s = .next t := by
  rw [primStep_owed ho]
  cases ok with
  | false => exact ⟨_, exec_respFail ho⟩
  | true => exact ⟨_, exec_respOk ho (inv_block_inBuffer h (State.owed_iff.1 ho).1)⟩

/-- Settles O43: agent by agent; only the response of `PRIM` can be refused, and only where none is owed. -/
theorem invariantStatesNeverStop : Obligations.InvariantStatesNeverStop := by
  intro s h
  have hpop : Inv Config.hw s.pop := inv_frame h ..
  have hstep : step s = perform s.nextMove s.pop := rfl
  rw [hstep]
  cases hm : s.nextMove with
  | host x => exact .inl (hostStep_goesOn x s.pop)
  | ctrl => exact .inl (ctrlStep_goesOn hpop)
  | ctx level => exact .inl ⟨_, rfl⟩
  | reset => exact .inl ⟨_, rfl⟩
  | prim ok =>
    cases ho : s.pop.owed with
    | true => exact .inl (primStep_goesOn hpop ho ok)
    | false =>
      have hnot : ¬(s.state = .encrypting ∧ s.ph = true) := fun howed =>
        absurd (ho.symm.trans (State.owed_iff.2 howed)) Bool.false_ne_true
      exact .inr ⟨primStep_notOwed ho ok, ok, rfl, hnot⟩

end Sys2Proof.Machine
end

section
/-! PROOFS. The code words and their decoder (R71, R73, R74, R78): each instruction is decoded from its own word and
from no other. -/

namespace Sys2Proof

/-- Settles O4: each word is closed, and the decoder evaluates on it. -/
theorem writtenOutWordsDecode : Obligations.WrittenOutWordsDecode := by
  unfold Obligations.WrittenOutWordsDecode
  decide

theorem decode_encode (i : Instr) : decode (encode i) = .ok i := by cases i <;> decide

theorem encode_wellFormed (i : Instr) : (encode i).wellFormed = true := by cases i <;> decide

/-- Settles O5, over the seven instructions. -/
theorem decodeOfEncodeIsIdentity : Obligations.DecodeOfEncodeIsIdentity :=
  fun i _ => ⟨decode_encode i, encode_wellFormed i⟩

/-- The sequencer's words that select an instruction are those of the table (R78). -/
theorem decodeSeq_ok {w : BitVec 4} {response : Option Bool} {i : Instr} (h : decodeSeq w response = .ok i) :
    .seq4 w response = encode i := by
  cases response with
  | none =>
    simp only [decodeSeq] at h
    split_ifs at h with h₁ h₂ h₃ <;> cases h <;> subst w <;> rfl
  | some ok =>
    simp only [decodeSeq] at h
    split_ifs at h with h₁ h₂ <;> cases h <;> subst w
    · rw [h₂]; rfl
    · rw [eq_false_of_ne_true h₂]; rfl

/-- A word selects an instruction exactly if it is the instruction's own (R73, R78). -/
theorem decode_eq_ok_iff {w : CodeWord} {i : Instr} : decode w = .ok i ↔ w = encode i := by
  refine ⟨fun h => ?_, fun h => h ▸ decode_encode i⟩
  cases w with
  | cmd32 v => rcases Machine.decodeCmd_ok h with ⟨rfl, rfl⟩ | ⟨rfl, rfl⟩ <;> rfl
  | seq4 w response => exact decodeSeq_ok h

/-- The legal command words (R73, R74). -/
theorem decodeCmd_isOk_iff {v : Word} : (∃ i, decodeCmd v = .ok i) ↔ v = 0x00000001 ∨ v = 0x00000002 := by
  constructor
  · rintro ⟨i, h⟩
    exact (Machine.decodeCmd_ok h).imp And.right And.right
  · rintro (rfl | rfl)
    · exact ⟨_, Machine.decodeCmd_getid⟩
    · exact ⟨_, Machine.decodeCmd_encrypt⟩

/-- A word that passes the checks of its format is some instruction's (R71, R73, R78). -/
theorem eq_encode_of_wellFormed {w : CodeWord} (h : w.wellFormed = true) : ∃ i, w = encode i := by
  cases w with
  | cmd32 v =>
    simp only [CodeWord.wellFormed, CodeWord.rsvzZero, CodeWord.opcLegal, Bool.and_eq_true, Bool.or_eq_true,
      beq_iff_eq] at h
    obtain ⟨hrsvz, hopc | hopc⟩ := h
    · exact ⟨.getid, congrArg _ (Machine.word_of_fields (k := 1) (by decide) hrsvz hopc)⟩
    · exact ⟨.encrypt, congrArg _ (Machine.word_of_fields (k := 2) (by decide) hrsvz hopc)⟩
  | seq4 w response =>
    cases response with
    | none =>
      simp only [CodeWord.wellFormed, CodeWord.seqRuns, Bool.or_eq_true, beq_iff_eq] at h
      obtain (rfl | rfl) | rfl := h
      · exact ⟨.ctxchk, rfl⟩
      · exact ⟨.derive, rfl⟩
      · exact ⟨.build, rfl⟩
    | some ok =>
      obtain rfl : w = 0b1011 := eq_of_beq h
      cases ok
      · exact ⟨.respFail, rfl⟩
      · exact ⟨.respOk, rfl⟩

/-- Settles O6: the words that decode and the words that pass the checks are both the instructions' own words. -/
theorem onlyEncodedWordsDecode : Obligations.OnlyEncodedWordsDecode := by
  refine ⟨fun _ _ => decode_eq_ok_iff, fun _ => decodeCmd_isOk_iff, fun w => ⟨fun h => ?_, ?_⟩⟩
  · exact (eq_encode_of_wellFormed h).imp fun _ => decode_eq_ok_iff.2
  · rintro ⟨i, h⟩
    rw [decode_eq_ok_iff.1 h]
    exact encode_wellFormed i

end Sys2Proof
end

section
/-! PROOFS. The sequencer (R78): which micro-operation its word selects, the words of `STATUS` (R77), and how a step
moves it. -/

namespace Sys2Proof.Machine

open Sys2Proof

variable {s t : State}

/-- Settles O24, one micro-operation of `CTRL` after another. -/
theorem disabledMicroOperationDoesNothing : Obligations.DisabledMicroOperationDoesNothing :=
  fun _ => ⟨exec_ctxchk_disabled, exec_derive_disabled, exec_build_disabled⟩

/-- Settles O8: what `SEQ` selects, for `CTRL` by the state, for `PRIM` by whether a response is owed. -/
theorem sequencerSelectsByStateAndPhase : Obligations.SequencerSelectsByStateAndPhase := by
  intro s
  refine ⟨fun h => ctrlStep_ctxcheck h.1 h.2, fun h => ctrlStep_derive h.1 h.2, fun h => ctrlStep_build h.1 h.2,
    ctrlStep_idle, fun h => ?owed, fun h ok => ?notOwed⟩
  case owed =>
    have ho : s.owed = true := State.owed_iff.2 h
    exact ⟨primStep_owed ho true, primStep_owed ho false⟩
  case notOwed =>
    have ho : s.owed = false := eq_false_of_ne_true (mt State.owed_iff.1 h)
    exact primStep_notOwed ho ok

/-- Settles O48: with nothing in store `CTRL` moves, and while not busy it has no micro-operation. -/
theorem notBusyWaitsForHost : Obligations.NotBusyWaitsForHost :=
  fun _ k hb hs => run_fixed ((step_nil hs).trans (ctrlStep_idle (.inl hb))) k

/-! ### The words of `STATUS` -/

/-- `STATUS` from the values of the four registers that it shows (R14). -/
theorem status_of {q : SeqState} {ph cmderr : Bool} {err : Option AbortCause} (hs : s.state = q) (hp : s.ph = ph)
    (hm : s.cmderr = cmderr) (he : s.err = err) :
    s.status = 0#24 ++ BitVec.ofBool ph ++ BitVec.ofBool cmderr ++ errCode err ++ BitVec.ofBool q.busy ++ q.code := by
  subst hs hp hm he
  rfl

/-- Item 3 of R26, read in a state that is not `ENCRYPTING`. -/
theorem inv_ph_eq_false {c : Config} (h : Inv c s) (hs : s.state ≠ .encrypting) : s.ph = false :=
  eq_false_of_ne_true (mt h.phOnlyEncrypting hs)

/-- While busy there is no error to show, and `PH` may be set in `ENCRYPTING` only. -/
theorem status_busy {c : Config} (h : Inv c s) (hb : s.busy = true) :
    s.status ∈ ([0x09, 0x0A, 0x0B, 0x8B] : List Word) := by
  have hm := h.cmderrNotBusy hb
  rcases State.busy_iff.1 hb with hs | hs | hs
  · rw [status_of hs (inv_ph_eq_false h (by simp [hs])) hm (inv_err_eq_none h (by simp [hs]))]
    decide
  · rw [status_of hs (inv_ph_eq_false h (by simp [hs])) hm (inv_err_eq_none h (by simp [hs]))]
    decide
  · rw [status_of hs rfl hm (inv_err_eq_none h (by simp [hs]))]
    cases s.ph <;> decide

/-- While not busy `PH` is clear, `CMDERR` may be set, and there is an error to show in `ABORTED` only. -/
theorem status_notBusy {c : Config} (h : Inv c s) (hb : s.busy = false) :
    s.status ∈ ([0x00, 0x40, 0x04, 0x44, 0x15, 0x25, 0x35, 0x55, 0x65, 0x75] : List Word) := by
  have hp : s.ph = false := inv_ph_eq_false h (by rcases State.not_busy_iff.1 hb with hs | hs | hs <;> simp [hs])
  rcases State.not_busy_iff.1 hb with hs | hs | hs
  · rw [status_of hs hp rfl (inv_err_eq_none h (by simp [hs]))]
    cases s.cmderr <;> decide
  · rw [status_of hs hp rfl (inv_err_eq_none h (by simp [hs]))]
    cases s.cmderr <;> decide
  · obtain ⟨cause, he⟩ := Option.ne_none_iff_exists'.1 (h.abortedIffErr.1 hs)
    rw [status_of hs hp rfl he]
    cases s.cmderr <;> cases cause <;> decide

/-- Settles O29: the busy words and the others are all in the table. -/
theorem statusWordsAreTheTabledOnes : Obligations.StatusWordsAreTheTabledOnes := by
  refine fun s h => ⟨?_, status_busy h⟩
  cases hb : s.busy with
  | true =>
    have hsub : ([0x09, 0x0A, 0x0B, 0x8B] : List Word) ⊆
        [0x00, 0x09, 0x0A, 0x0B, 0x8B, 0x04, 0x15, 0x25, 0x35, 0x40, 0x44, 0x55, 0x65, 0x75] := by decide
    exact hsub (status_busy h hb)
  | false =>
    have hsub : ([0x00, 0x40, 0x04, 0x44, 0x15, 0x25, 0x35, 0x55, 0x65, 0x75] : List Word) ⊆
        [0x00, 0x09, 0x0A, 0x0B, 0x8B, 0x04, 0x15, 0x25, 0x35, 0x40, 0x44, 0x55, 0x65, 0x75] := by decide
    exact hsub (status_notBusy h hb)

/-! ### Transitions -/

/-- Who moves the sequencer (R11): `ENCRYPT`, a micro-operation of `CTRL`, or a response. -/
theorem OnlyWritersChange.sequencer {m : Move} (w : OnlyWritersChange m s t) (h : ¬(t.state = s.state ∧ t.ph = s.ph)) :
    CommandTaken m s 0x00000002 ∨ (s.busy = true ∧ m = .ctrl) ∨
      (s.state = .encrypting ∧ s.ph = true ∧ ∃ ok, m = .prim ok) := by
  rcases not_and_or.1 h with hs | hp
  · refine (w.state hs).imp_right (.imp_left fun ⟨hs, hm⟩ => ⟨State.busy_iff.2 (hs.imp_right .inl), hm⟩)
  · refine (w.ph hp).imp_right (.imp_left fun ⟨hs, _, hm⟩ => ⟨State.busy_iff.2 (.inr (.inr hs)), hm⟩)

/-- `ENCRYPT` while not busy (R100, R101). -/
theorem exec_encrypt_transition (hb : s.busy = false) (h : exec .encrypt s = .next t) :
    t.ph = false ∧ (t.state = .ctxcheck ∨ t.state = .aborted) := by
  by_cases hl : s.length ≤ Config.hw.cap
  · cases (exec_encrypt_accept hb hl).symm.trans h
    exact ⟨rfl, .inl rfl⟩
  · cases (exec_encrypt_refuse hb (Nat.not_le.1 hl)).symm.trans h
    exact ⟨rfl, .inr rfl⟩

/-- `CTXCHK` (R103). -/
theorem exec_ctxchk_transition (hs : s.state = .ctxcheck) (hp : s.ph = false) (h : exec .ctxchk s = .next t) :
    t.ph = false ∧ (t.state = .derive ∨ t.state = .aborted) := by
  cases hc : s.ctxReady with
  | true => cases (exec_ctxchk_ready hs hp hc).symm.trans h; exact ⟨hp, .inl rfl⟩
  | false => cases (exec_ctxchk_notReady hs hp hc).symm.trans h; exact ⟨rfl, .inr rfl⟩

/-- `DERIVE` (R95, R104). -/
theorem exec_derive_transition (hs : s.state = .derive) (hp : s.ph = false) (hl : s.length ≤ Config.hw.cap)
    (h : exec .derive s = .next t) :
    t.ph = false ∧ ((ceil16 s.length = 0 ∧ t.state = .done) ∨ (0 < ceil16 s.length ∧ t.state = .encrypting)) := by
  cases (exec_derive hs hp).symm.trans h
  have hzero : BitVec.ofNat 16 (ceil16 s.length) = 0 ↔ ceil16 s.length = 0 := by
    rw [BitVec.toNat_eq, toNat_nblk hl]
    rfl
  refine ⟨hp, ?_⟩
  by_cases h0 : ceil16 s.length = 0
  · exact .inl ⟨h0, if_pos (hzero.2 h0)⟩
  · exact .inr ⟨Nat.pos_of_ne_zero h0, if_neg (mt hzero.1 h0)⟩

/-- A response that is owed (R121, R122). -/
theorem primStep_transition {ok : Bool} (hinv : Inv Config.hw s) (hs : s.state = .encrypting) (hp : s.ph = true)
    (h : primStep ok s = .next t) :
    t.ph = false ∧ ((s.i.toNat + 1 < s.nblk.toNat ∧ t.state = .encrypting) ∨
      (s.i.toNat + 1 = s.nblk.toNat ∧ t.state = .done) ∨ t.state = .aborted) := by
  have ho : s.owed = true := State.owed_iff.2 ⟨hs, hp⟩
  rw [primStep_owed ho] at h
  cases ok with
  | false =>
    cases (exec_respFail ho).symm.trans h
    exact ⟨rfl, .inr (.inr rfl)⟩
  | true =>
    cases (exec_respOk ho (inv_block_inBuffer hinv hs)).symm.trans h
    obtain ⟨-, -, hi, -⟩ := hinv.blockInHand hs
    have hlast : s.i + 1 = s.nblk ↔ s.i.toNat + 1 = s.nblk.toNat := by
      have hwrap : s.i.toNat + 1 < 2 ^ 16 := by have := s.nblk.isLt; omega
      rw [BitVec.toNat_eq, BitVec.toNat_add]
      exact Eq.congr_left (Nat.mod_eq_of_lt hwrap)
    refine ⟨rfl, ?_⟩
    by_cases h0 : s.i.toNat + 1 = s.nblk.toNat
    · exact .inr (.inl ⟨h0, if_pos (hlast.2 h0)⟩)
    · exact .inl ⟨by omega, if_neg (mt hlast.1 h0)⟩

/-- Settles O44: the agents that move the sequencer, one by one. -/
theorem sequencerTransitions : Obligations.SequencerTransitions := by
  intro s t h hstep hreset
  have hpop : Inv Config.hw s.pop := inv_frame h ..
  have hperform : perform s.nextMove s.pop = .next t := hstep
  by_cases hsame : t.state = s.state ∧ t.ph = s.ph
  · exact .inl hsame
  right
  rcases (perform_onlyWriters hreset hperform).sequencer hsame with ⟨hb, hm⟩ | ⟨hb, hm⟩ | ⟨hs, hp, ok, hm⟩
  · rw [hm] at hperform
    have hexec : exec .encrypt s.pop = .next t :=
      ((hostStep_write_cmd hb 2).trans (offerCommand_of_decodeCmd decodeCmd_encrypt)).symm.trans hperform
    exact .inl ⟨hb, exec_encrypt_transition hb hexec⟩
  · right
    rw [hm] at hperform
    cases hp : s.ph with
    | true =>
      cases (ctrlStep_idle (s := s.pop) (.inr hp)).symm.trans hperform
      exact absurd ⟨rfl, rfl⟩ hsame
    | false =>
      rcases State.busy_iff.1 hb with hs | hs | hs
      · have hexec : exec .ctxchk s.pop = .next t := (ctrlStep_ctxcheck hs hp).symm.trans hperform
        exact .inl ⟨hs, exec_ctxchk_transition hs hp hexec⟩
      · have hexec : exec .derive s.pop = .next t := (ctrlStep_derive hs hp).symm.trans hperform
        exact .inr (.inl ⟨hs, exec_derive_transition (s := s.pop) hs hp (h.busyFits hb) hexec⟩)
      · have hbuild := (ctrlStep_build hs hp).trans (exec_build hs hp (inv_window_inBuffer hpop hs))
        cases hbuild.symm.trans hperform
        exact .inr (.inr (.inl ⟨hs, rfl, hs, rfl⟩))
  · rw [hm] at hperform
    exact .inr (.inr (.inr (.inr ⟨hs, hp, primStep_transition (s := s.pop) hpop hs hp hperform⟩)))

end Sys2Proof.Machine
end

section
/-! PROOFS. The lines of a host program (R82), and the two idioms that are fixed lists of them (R83): `GETDEVICEID`
and `LOAD`. -/

namespace Sys2Proof.Machine

open Sys2Proof

variable {s t : State} {rest : List Move}

/-! ### One line -/

/-- `RD32` returns the register (R45). -/
theorem hostStep_rd32 (s : State) (r : HostReg) :
    hostStep (AsmLine.rd32 r).txn s = .next (s.reply (.word (s.regRead r))) :=
  congrArg (fun w => Host.Outcome.next (s.reply (.word w))) (hostRead32_reg Config.hw s r)

/-- `WR32 INDEX` while not busy (R46). -/
theorem hostStep_wr32_index (hb : s.busy = false) (v : Word) :
    hostStep (AsmLine.wr32 .index v).txn s = .next { s with index := v } := hostWrite32_index hb v

/-- `WR32 LEN` while not busy (R46). -/
theorem hostStep_wr32_len (hb : s.busy = false) (v : Word) :
    hostStep (AsmLine.wr32 .len v).txn s = .next { s with len := v } := hostWrite32_len hb v

/-- `WR32 CMD` with the word of a command while not busy (R71). -/
theorem hostStep_wr32_cmd {i : Instr} {v : Word} (hb : s.busy = false) (hv : decodeCmd v = .ok i) :
    hostStep (AsmLine.wr32 .cmd v).txn s = exec i s :=
  (hostStep_write_cmd hb v).trans (offerCommand_of_decodeCmd hv)

/-- `WR8` in the `CT` aperture while not busy (R42). -/
theorem hostStep_wr8ct (hb : s.busy = false) {a : Nat} (ha : a < Config.hw.cap) (b : Byte) :
    hostStep (AsmLine.wr8ct a b).txn s = .next (s.writeCt a b) := by
  simp only [AsmLine.txn, hostStep, hostWrite8, hb, regionOf_ct ha, Bool.false_eq_true, if_false]

/-- A run whose first step is the transaction of the first line in store. -/
theorem run_line {l : AsmLine} {lines : List AsmLine} {k : Nat} (hs : s.schedule = asmMoves (l :: lines) ++ rest)
    (h : hostStep l.txn { s with schedule := asmMoves lines ++ rest } = .next t) :
    Host.Core.run core (k + 1) s = Host.Core.run core k t :=
  run_next ((step_cons hs).trans h)

/-! ### `GETDEVICEID` -/

/-- A 32-bit integer is what its word is read as (R15). -/
theorem toInt_ofInt_of_bounds {n : Int} (h₁ : -2 ^ 31 ≤ n) (h₂ : n < 2 ^ 31) : (BitVec.ofInt 32 n).toInt = n := by
  rw [BitVec.toInt_ofInt, Int.bmod_eq_of_le] <;> omega

/-- Settles O54: the write of `INDEX`, the command, and the read, line by line. -/
theorem getDeviceIdReturnsWord : Obligations.GetDeviceIdReturnsWord := by
  intro s n rest hb h₁ h₂ hs
  have hidx : idx (BitVec.ofInt 32 n).toInt = idx n := by rw [toInt_ofInt_of_bounds h₁ h₂]
  have hword : Config.hw.devid (idx (BitVec.ofInt 32 n).toInt) = Config.hw.devid (idx n) := by rw [hidx]
  refine ⟨_, (run_line hs (hostStep_wr32_index (by exact hb) _)).trans <|
    (run_line rfl ((hostStep_wr32_cmd (by exact hb) decodeCmd_getid).trans (exec_getid (by exact hb)))).trans <|
    run_line rfl (hostStep_rd32 _ .idword), ?reply, ?idword, rfl, rfl⟩
  case reply => exact congrArg (fun w => s.replies ++ [.word w]) hword
  case idword => exact hword

/-! ### `LOAD` -/

/-- The lines of a `LOAD` that write bytes, from address `a` on. -/
def byteLines (a : Nat) (bytes : List Byte) : List AsmLine := bytes.mapIdx fun j b => .wr8ct (a + j) b

theorem byteLines_cons (a : Nat) (b : Byte) (bytes : List Byte) :
    byteLines a (b :: bytes) = .wr8ct a b :: byteLines (a + 1) bytes := by
  simp only [byteLines, List.mapIdx_cons, Nat.add_zero, Nat.add_assoc, Nat.add_comm 1]

theorem loadLines_eq (bytes : List Byte) :
    loadLines bytes = byteLines 0 bytes ++ [.wr32 .len (BitVec.ofNat 32 bytes.length)] := by
  simp only [loadLines, byteLines, Nat.zero_add]

/-- A run through the lines that write bytes. -/
theorem run_byteLines {bytes : List Byte} {a : Nat} {lines : List AsmLine} (hb : s.busy = false)
    (hfit : a + bytes.length ≤ Config.hw.cap)
    (hs : s.schedule = asmMoves (byteLines a bytes ++ lines) ++ rest) (k : Nat) :
    Host.Core.run core (bytes.length + k) s =
      Host.Core.run core k { s with schedule := asmMoves lines ++ rest, ct := s.ct.write a bytes } := by
  induction bytes generalizing a s with
  | nil =>
    have hs : s.schedule = asmMoves lines ++ rest := hs
    rw [← hs, List.length_nil, Nat.zero_add]
    rfl
  | cons b bytes ih =>
    rw [List.length_cons] at hfit
    rw [byteLines_cons] at hs
    rw [List.length_cons, Nat.succ_add, run_line hs (hostStep_wr8ct (by exact hb) (by omega) b)]
    exact ih (a := a + 1) hb (by omega) rfl

/-- Settles O55: the bytes are written one after another (R42), and then their number (R46). -/
theorem loadPlacesCleartext : Obligations.LoadPlacesCleartext := by
  intro s bytes rest hb hfit hs
  have hcap := cap_le Config.hw
  rw [loadLines_eq] at hs
  refine ⟨_, (run_byteLines hb (by omega) hs 1).trans (run_line rfl (hostStep_wr32_len (by exact hb) _)), rfl, ?len,
    fun a ha => ?inside, fun a ha => ?outside⟩
  case len => exact Nat.mod_eq_of_lt (by omega)
  case inside =>
    have hget := Memory.get_write_inside bytes s.ct 0 a ha
    rw [Nat.zero_add] at hget
    exact congrArg (Option.getD · _) hget
  case outside =>
    exact congrArg (Option.getD · _) (Memory.get_write_outside bytes s.ct (.inr (by omega)))

end Sys2Proof.Machine
end

section
/-! PROOFS. The turns of a host program (R83): what a turn that polls leaves, and a row of byte reads. -/

namespace Sys2Proof.Machine

open Sys2Proof

variable {s t u : State} {gap : List Move} {rest : List HostItem}

/-! ### What is left in store -/

/-- No move changes what is in store behind it. -/
theorem perform_schedule {m : Move} (h : perform m s = .next t) : t.schedule = s.schedule := by
  cases perform_effect h <;> rfl

/-- The first step of a run that goes on. -/
theorem step_of_run {k : Nat} (h : Host.Core.run core (k + 1) s = .next t) :
    ∃ u, step s = .next u ∧ Host.Core.run core k u = .next t := by
  cases hs : step s with
  | next u => exact ⟨u, rfl, run_next hs ▸ h⟩
  | fault r => have hs : core.step s = .fault r := hs; simp [Host.Core.run, hs] at h
  | refused r => have hs : core.step s = .refused r := hs; simp [Host.Core.run, hs] at h

/-- A run takes one move out of store with each step. -/
theorem run_schedule {k : Nat} (h : Host.Core.run core k s = .next t) : t.schedule = s.schedule.drop k := by
  induction k generalizing s with
  | zero => cases h; rfl
  | succ k ih =>
    obtain ⟨u, hs, h⟩ := step_of_run h
    have hu : u.schedule = s.schedule.tail := perform_schedule hs
    rw [ih h, hu, List.drop_tail]

/-- A run that goes on to its end has gone on to each point before it. -/
theorem run_goesOn_before {k l : Nat} (h : Host.Core.run core (k + l) s = .next t) :
    ∃ u, Host.Core.run core k s = .next u := by
  induction k generalizing s with
  | zero => exact ⟨s, rfl⟩
  | succ k ih =>
    rw [Nat.succ_add] at h
    obtain ⟨u, hs, h⟩ := step_of_run h
    exact (ih h).imp fun _ hu => (run_next hs).trans hu

/-! ### `POLL` -/

@[simp] theorem State.reply_status (s : State) (r : HostReply) : (s.reply r).status = s.status := rfl

/-- `BUSY` is bit 3 of the word that a `POLL` reads (R14). -/
theorem pollEnds_status (s : State) : pollEnds s.status = !s.busy := by
  rw [pollEnds, status_getLsbD]
  rfl

/-- The read of a `POLL` (R83). -/
theorem hostStep_poll (s : State) : hostStep HostItem.poll.nextLine.txn s = .next (s.reply (.word s.status)) :=
  hostStep_rd32 s .status

/-- What is left of a `POLL` after its read: nothing, or all of it while busy (R83). -/
theorem poll_after (s : State) :
    HostItem.poll.after (s.reply (.word s.status)).lastReply = if s.busy then [.poll] else [] := by
  rw [State.lastReply_reply, HostItem.after, pollEnds_status]
  cases s.busy <;> rfl

/-- A turn of `POLL` whose gap goes on to a state from which the host then reads `STATUS`. -/
theorem hostTurn_poll {moves : List Move}
    (hgap : Host.Core.run core gap.length (s.enqueue (gap ++ [.host HostItem.poll.nextLine.txn])) = .next u)
    (hu : u.schedule = .host HostItem.poll.nextLine.txn :: moves) :
    hostTurn gap (.poll :: rest) s =
      .next ((if u.busy then [.poll] else []) ++ rest,
        { u with schedule := moves, replies := u.replies ++ [.word u.status] }) := by
  have hstep := (step_cons hu).trans (hostStep_poll _)
  rw [hostTurn_next ((run_add hgap).trans (run_next hstep)), poll_after]
  rfl

/-- A turn of `POLL` that goes on is one whose gap goes on. -/
theorem hostTurn_poll_gap {left : List HostItem} (h : hostTurn gap (.poll :: rest) s = .next (left, t)) :
    ∃ u, Host.Core.run core gap.length (s.enqueue (gap ++ [.host HostItem.poll.nextLine.txn])) = .next u ∧
      u.schedule = .host HostItem.poll.nextLine.txn :: s.schedule := by
  cases hrun : Host.Core.run core (gap.length + 1) (s.enqueue (gap ++ [.host HostItem.poll.nextLine.txn])) with
  | next v =>
    obtain ⟨u, hu⟩ := run_goesOn_before hrun
    refine ⟨u, hu, ?_⟩
    rw [run_schedule hu]
    simp
  | fault f => simp only [hostTurn, hrun, reduceCtorEq] at h
  | refused r => simp only [hostTurn, hrun, reduceCtorEq] at h

/-- With nothing in between, a turn of `POLL` is its read. -/
theorem hostTurn_poll_noGap (s : State) (rest : List HostItem) :
    hostTurn [] (.poll :: rest) s =
      .next ((if s.busy then [.poll] else []) ++ rest, s.reply (.word s.status)) :=
  hostTurn_poll (gap := []) (u := s.enqueue [.host HostItem.poll.nextLine.txn]) rfl rfl

/-- Settles O56: the read is the turn's last step, so the word read is the `STATUS` of the state it leaves. -/
theorem pollRepeatsUntilNotBusy : Obligations.PollRepeatsUntilNotBusy := by
  refine ⟨?turn, ?notBusy, ?busy⟩
  case turn =>
    intro gap rest left s t h
    obtain ⟨u, hgap, hu⟩ := hostTurn_poll_gap h
    rw [hostTurn_poll hgap hu] at h
    cases h
    have hresult (r : List Move) :
        ({ u with schedule := r, replies := u.replies ++ [.word u.status] } : State).pollResult = some u.status := by
      simp [State.pollResult, State.lastReply]
    refine ⟨hresult _, fun hb => ?_, fun hb => ?_⟩
    · have hb : u.busy = false := hb
      simp [hb]
    · have hb : u.busy = true := hb
      simp [hb]
  case notBusy =>
    intro s rest hb
    rw [hostTurn_poll_noGap, hb]
    rfl
  case busy =>
    intro s k hb
    induction k generalizing s with
    | zero => simp
    | succ k ih =>
      have hturn := hostTurn_poll_noGap s []
      rw [hb] at hturn
      rw [List.replicate_succ]
      refine (hostRun_next hturn).trans ((ih (s.reply (.word s.status)) hb).trans ?_)
      rw [State.reply_status, State.reply_replies, List.append_assoc, List.singleton_append, ← List.replicate_succ]
      rfl

/-! ### A row of byte reads -/

/-- The record of replies is no part of what a byte read depends on (R53). -/
@[simp] theorem hostRead8_reply (c : Config) (s : State) (r : HostReply) : hostRead8 c (s.reply r) = hostRead8 c s :=
  funext fun off => hostRead8_congr rfl rfl rfl rfl off

/-- The reads of bytes of the `OB` aperture, with nothing in between (R83). -/
theorem hostRun_readOb (as : List Nat) (s : State) :
    hostRun (List.replicate as.length []) (lineProgram (as.map .rd8ob)) s =
      .next ([], { s with
        replies := s.replies ++ as.map fun a => .byte (hostRead8 Config.hw s (BitVec.ofNat 18 (0x20000 + a))) }) := by
  induction as generalizing s with
  | nil => simp [lineProgram]
  | cons a as ih =>
    have hturn := hostTurn_noGap (s := s) (item := .line (.rd8ob a)) (rest := lineProgram (as.map .rd8ob)) rfl
    rw [List.length_cons, List.replicate_succ]
    refine (hostRun_next hturn).trans ((ih _).trans ?_)
    rw [hostRead8_reply, State.reply_replies, List.append_assoc]
    rfl

end Sys2Proof.Machine
end

section
/-! PROOFS. The course of an operation (R127): the states in which some of its moves are still to come, those in which
it has ended, and that each of its moves leads from one of these states to the next. -/

namespace Sys2Proof.Machine

open Sys2Proof

/-! ### The bytes of `OB` -/

/-- While the gate is open the host reads the bytes of `OB` (R43, R125). -/
theorem flattenedResult_done {c : Config} {t : State} (hs : t.state = .done) (hfit : t.outlen.toNat ≤ c.cap) :
    t.flattenedResult c = memRead (t.obByte c) 0 t.outlen.toNat := by
  refine memRead_congr fun k hk => ?_
  simp only [hostRead8, regionOf_ob (show 0 + k < c.cap by omega)]
  exact if_pos ⟨hs, by omega⟩

/-- The bytes of `OB` after a block is appended (R121). -/
theorem memRead_writeOb (c : Config) (s : State) (i : Nat) (b : Block) :
    memRead ((s.writeOb (16 * i) b).obByte c) 0 (16 * (i + 1)) = memRead (s.obByte c) 0 (16 * i) ++ b.toList := by
  rw [Nat.mul_succ, memRead_append, Nat.zero_add, memRead_block (State.obByte_writeOb_inside c s _ b)]
  exact congrArg (· ++ _) (memRead_congr fun k hk => State.obByte_writeOb_outside c s _ b (by omega))

/-! ### Operations -/

/-- What an operation is of: the cleartext, its length, the level that `CTXCHK` samples, and the failing requests. -/
structure Operation where
  ct : Nat → Byte
  len : Nat
  ctx : Bool
  fails : Nat → Bool

namespace Operation

variable (op : Operation)

/-- The operation that `ENCRYPT` begins in a state (R100). -/
def ofState (s : State) (ctx : Bool) (fails : Nat → Bool) : Operation := ⟨s.ctByte Config.hw, s.length, ctx, fails⟩

/-- The result of the operation (R127). -/
def result : TaggedResult := encryptOp Config.hw op.ct op.len op.ctx op.fails

/-- The moves that are left when a request of block `i` is outstanding and `n` blocks come after it. -/
def responseMoves (i n : Nat) : List Move :=
  .prim (!op.fails i) :: if op.fails i then [] else blockMoves op.fails (i + 1) n

/-- The moves that are left before `DERIVE`. -/
def deriveMoves : List Move := .ctrl :: blockMoves op.fails 0 (ceil16 op.len)

/-- `LEN` and `CT` are the operation's, and it was accepted (R100). -/
structure Held (t : State) : Prop where
  ct : t.ctByte Config.hw = op.ct
  len : t.length = op.len
  fits : op.len ≤ Config.hw.cap

/-- Between two blocks: the blocks below `i` are in `OB`, `n` are to come, and from there the loop of R127 goes on to
the result. -/
structure Between (i n : Nat) (t : State) : Prop where
  key : t.key = deriveKey Config.hw
  index : t.i.toNat = i
  count : t.nblk.toNat = i + n
  total : i + n = ceil16 op.len
  outlen : t.outlen.toNat = 16 * i
  loop : encryptBlocks Config.hw t.key op.ct op.len op.fails i n (memRead (t.obByte Config.hw) 0 (16 * i)) = op.result

/-- The operation has ended with its result (R125). -/
structure Ended (t : State) : Prop where
  notBusy : t.busy = false
  tagged : t.taggedResult Config.hw = some op.result
  outlen : t.outlen.toNat = op.result.flatten.length
  flattened : t.flattenedResult Config.hw = op.result.flatten

/-- The states in the course of the operation, with the moves that are still to come. -/
inductive Underway : List Move → State → Prop where
  | accepted {t : State} (held : op.Held t) (hs : t.state = .ctxcheck) (hp : t.ph = false) :
      Underway (.ctx op.ctx :: .ctrl :: if op.ctx then op.deriveMoves else []) t
  | beforeCtxchk {t : State} (held : op.Held t) (hs : t.state = .ctxcheck) (hp : t.ph = false)
      (hc : t.ctxReady = op.ctx) : Underway (.ctrl :: if op.ctx then op.deriveMoves else []) t
  | beforeDerive {t : State} (held : op.Held t) (hs : t.state = .derive) (hp : t.ph = false) (hc : op.ctx = true) :
      Underway op.deriveMoves t
  | beforeBuild {t : State} {i n : Nat} (held : op.Held t) (hs : t.state = .encrypting) (hp : t.ph = false)
      (between : op.Between i (n + 1) t) : Underway (.ctrl :: op.responseMoves i n) t
  | beforeResponse {t : State} {i n : Nat} (held : op.Held t) (hs : t.state = .encrypting) (hp : t.ph = true)
      (between : op.Between i (n + 1) t) (hb : t.iblk = padblock Config.hw.zeroStop op.ct op.len i) :
      Underway (op.responseMoves i n) t
  | ended {t : State} (h : op.Ended t) : Underway [] t

variable {op} {s t : State}

/-! ### The two ways to end -/

theorem Ended.ofDone (hs : t.state = .done) (hfit : t.outlen.toNat ≤ Config.hw.cap)
    (hr : op.result = .done (memRead (t.obByte Config.hw) 0 t.outlen.toNat)) : op.Ended t where
  notBusy := State.not_busy_iff.2 (.inr (.inl hs))
  tagged := by simp only [State.taggedResult, hs, hr]
  outlen := by simp [hr, TaggedResult.flatten]
  flattened := by rw [flattenedResult_done hs hfit, hr]; rfl

theorem Ended.ofAbort {cause : AbortCause} (hr : op.result = .aborted cause) : op.Ended (s.abort cause) where
  notBusy := rfl
  tagged := by rw [hr]; rfl
  outlen := by rw [hr]; rfl
  flattened := by rw [hr]; rfl

/-! ### Between two blocks -/

/-- The loop test (R95, R121): the operation goes on while a block is to come, and ends with the last. -/
theorem Between.underway {i n : Nat} (h : op.Between i n t) (held : op.Held t) (hp : t.ph = false)
    (hs : t.state = if n = 0 then .done else .encrypting) : op.Underway (blockMoves op.fails i n) t := by
  cases n with
  | succ n => exact .beforeBuild held hs hp h
  | zero =>
    have hfit := ceil16_fits held.fits
    have hcount := h.total
    refine .ended (.ofDone hs (by rw [h.outlen]; omega) ?_)
    rw [h.outlen, ← h.loop]
    rfl

/-! ### The moves of an operation, one by one -/

/-- The store and the record of replies do not matter to the operation (R57). -/
theorem Underway.outside {moves : List Move} (h : op.Underway moves t) (schedule : List Move)
    (replies : List HostReply) : op.Underway moves { t with schedule := schedule, replies := replies } := by
  cases h with
  | accepted held hs hp => exact .accepted { held with } hs hp
  | beforeCtxchk held hs hp hc => exact .beforeCtxchk { held with } hs hp hc
  | beforeDerive held hs hp hc => exact .beforeDerive { held with } hs hp hc
  | beforeBuild held hs hp h => exact .beforeBuild { held with } hs hp { h with }
  | beforeResponse held hs hp h hb => exact .beforeResponse { held with } hs hp { h with } hb
  | ended h => exact .ended { h with }

/-- A move of an operation that leads to a state with the moves `moves` to come, and changes neither the store nor the
record of replies. -/
def LeadsTo (op : Operation) (m : Move) (moves : List Move) (s : State) : Prop :=
  ∃ t, perform m s = .next t ∧ op.Underway moves t ∧ t.schedule = s.schedule ∧ t.replies = s.replies

/-- `CTXCHK` (R103). -/
theorem ctxchk_leadsTo (held : op.Held s) (hs : s.state = .ctxcheck) (hp : s.ph = false) (hc : s.ctxReady = op.ctx) :
    op.LeadsTo .ctrl (if op.ctx then op.deriveMoves else []) s := by
  cases hctx : op.ctx with
  | true =>
    rw [hctx] at hc
    exact ⟨_, (ctrlStep_ctxcheck hs hp).trans (exec_ctxchk_ready hs hp hc),
      .beforeDerive { held with } rfl hp hctx, rfl, rfl⟩
  | false =>
    rw [hctx] at hc
    have hr : op.result = .aborted .platformUnavailable := by
      simp only [result, encryptOp, if_neg (Nat.not_lt.2 held.fits), hctx, if_true]
    exact ⟨_, (ctrlStep_ctxcheck hs hp).trans (exec_ctxchk_notReady hs hp hc), .ended (.ofAbort hr), rfl, rfl⟩

/-- `DERIVE` with `ALLOC` (R95, R104). -/
theorem derive_leadsTo (held : op.Held s) (hs : s.state = .derive) (hp : s.ph = false) (hc : op.ctx = true) :
    op.LeadsTo .ctrl (blockMoves op.fails 0 (ceil16 op.len)) s := by
  refine ⟨_, (ctrlStep_derive hs hp).trans (exec_derive hs hp), ?_, rfl, rfl⟩
  have hn : (BitVec.ofNat 16 (ceil16 s.length)).toNat = ceil16 op.len := by rw [held.len]; exact toNat_nblk held.fits
  refine Between.underway ⟨rfl, rfl, ?_, ?_, rfl, ?_⟩ { held with } hp ?_
  · exact hn.trans (Nat.zero_add _).symm
  · exact Nat.zero_add _
  · simp [result, encryptOp, Nat.not_lt.2 held.fits, hc, memRead]
  · exact if_congr (by rw [BitVec.toNat_eq, ← hn]; rfl) rfl rfl

/-- `BUILD` (R107). -/
theorem build_leadsTo {i n : Nat} (held : op.Held s) (hs : s.state = .encrypting) (hp : s.ph = false)
    (h : op.Between i (n + 1) s) : op.LeadsTo .ctrl (op.responseMoves i n) s := by
  have hin : inBuffer Config.hw (16 * s.i.toNat) (avail s.length s.i.toNat) = true := by
    have hfits := held.fits
    have hend := window_end (L := op.len) (i := i) (by have := h.total; omega)
    rw [inBuffer_iff, h.index, held.len]
    omega
  refine ⟨_, (ctrlStep_build hs hp).trans (exec_build hs hp hin), ?_, rfl, rfl⟩
  refine .beforeResponse { held with } hs rfl { h with } ?_
  simp only [held.ct, held.len, h.index]

/-- A failing response (R122). -/
theorem respFail_leadsTo {i n : Nat} (hs : s.state = .encrypting) (hp : s.ph = true) (h : op.Between i (n + 1) s)
    (hf : op.fails i = true) : op.LeadsTo (.prim false) [] s := by
  have ho := State.owed_iff.2 ⟨hs, hp⟩
  have hr : op.result = .aborted .primitiveFailure := by rw [← h.loop, encryptBlocks, if_pos hf]
  exact ⟨_, (primStep_owed ho false).trans (exec_respFail ho), .ended (.ofAbort hr), rfl, rfl⟩

/-- A response that is `ok` (R121). -/
theorem respOk_leadsTo {i n : Nat} (held : op.Held s) (hs : s.state = .encrypting) (hp : s.ph = true)
    (h : op.Between i (n + 1) s) (hb : s.iblk = padblock Config.hw.zeroStop op.ct op.len i) (hf : op.fails i = false) :
    op.LeadsTo (.prim true) (blockMoves op.fails (i + 1) n) s := by
  have ho := State.owed_iff.2 ⟨hs, hp⟩
  have hfit := ceil16_fits held.fits
  have hcap := cap_le Config.hw
  have htotal := h.total
  have hin : inBuffer Config.hw (16 * s.i.toNat) 16 = true := by
    rw [inBuffer_iff, h.index]
    omega
  have hi : (s.i + 1).toNat = i + 1 := by
    rw [BitVec.toNat_add, h.index]
    exact Nat.mod_eq_of_lt (show i + 1 < 2 ^ 16 by omega)
  have hlast : s.i + 1 = s.nblk ↔ n = 0 := by
    rw [BitVec.toNat_eq, hi, h.count]
    omega
  refine ⟨_, (primStep_owed ho true).trans (exec_respOk ho hin), ?_, rfl, rfl⟩
  refine Between.underway ⟨h.key, hi, ?_, by omega, ?_, ?_⟩ { held with } rfl ?_
  · exact h.count.trans (by omega)
  · show (s.outlen + 16).toNat = _
    rw [BitVec.toNat_add, h.outlen]
    exact Nat.mod_eq_of_lt (show 16 * i + 16 < 2 ^ 32 by omega)
  · have hloop := h.loop
    rw [encryptBlocks, hf, if_neg Bool.false_ne_true, ← hb, ← memRead_writeOb] at hloop
    rw [← h.index] at hloop ⊢
    exact hloop
  · simp only [hlast]

/-- Each move leads on. -/
theorem Underway.leadsTo {m : Move} {moves : List Move} (h : op.Underway (m :: moves) s) : op.LeadsTo m moves s := by
  generalize hall : m :: moves = all at h
  cases h with
  | accepted held hs hp =>
    cases hall
    exact ⟨_, rfl, .beforeCtxchk { held with } hs hp rfl, rfl, rfl⟩
  | beforeCtxchk held hs hp hc => cases hall; exact ctxchk_leadsTo held hs hp hc
  | beforeDerive held hs hp hc => cases hall; exact derive_leadsTo held hs hp hc
  | beforeBuild held hs hp between => cases hall; exact build_leadsTo held hs hp between
  | beforeResponse held hs hp between hb =>
    cases hall
    cases hf : op.fails _ with
    | true => exact respFail_leadsTo hs hp between hf
    | false => exact respOk_leadsTo held hs hp between hb hf
  | ended h => cases hall

/-- The operation is busy exactly while moves are to come. -/
theorem Underway.busy_eq_false_iff {moves : List Move} (h : op.Underway moves t) : t.busy = false ↔ moves = [] := by
  cases h with
  | accepted held hs hp => simp [State.busy, hs, SeqState.busy]
  | beforeCtxchk held hs hp hc => simp [State.busy, hs, SeqState.busy]
  | beforeDerive held hs hp hc => simp [State.busy, hs, SeqState.busy, deriveMoves]
  | beforeBuild held hs hp between => simp [State.busy, hs, SeqState.busy]
  | beforeResponse held hs hp between hb => simp [State.busy, hs, SeqState.busy, responseMoves]
  | ended h => simp [h.notBusy]

/-- With no move to come the operation has ended. -/
theorem Underway.of_nil (h : op.Underway [] t) : op.Ended t := by
  cases h with
  | ended h => exact h

/-! ### Acceptance or refusal (R100, R101) -/

/-- `ENCRYPT` while not busy begins the operation on what `CT` and `LEN` hold. -/
theorem exec_encrypt_underway (hb : s.busy = false) (ctx : Bool) (fails : Nat → Bool) :
    ∃ t, exec .encrypt s = .next t ∧ (ofState s ctx fails).Underway (operationMoves Config.hw s.length ctx fails) t ∧
      t.schedule = s.schedule ∧ t.replies = s.replies := by
  by_cases hfit : s.length ≤ Config.hw.cap
  · refine ⟨_, exec_encrypt_accept hb hfit, ?_, rfl, rfl⟩
    rw [operationMoves, if_neg (by omega)]
    exact .accepted ⟨rfl, rfl, hfit⟩ rfl rfl
  · refine ⟨_, exec_encrypt_refuse hb (by omega), ?_, rfl, rfl⟩
    rw [operationMoves, if_pos (by omega)]
    exact .ended (.ofAbort (if_pos (Nat.not_le.1 hfit)))

end Operation
end Sys2Proof.Machine
end

section
/-! PROOFS. `ENCRYPTCALL` (R83): its reads of `STATUS` in the course of the operation, and its read of the result. -/

namespace Sys2Proof.Machine

open Sys2Proof Operation

variable {op : Operation} {s : State} {gap moves : List Move} {rest : List HostItem}

/-- A run through moves of the operation leaves those behind them to come. -/
theorem Operation.Underway.run {store : List Move} (h : op.Underway (gap ++ moves) s) (hs : s.schedule = gap ++ store) :
    ∃ t, Host.Core.run core gap.length s = .next t ∧
      op.Underway moves t ∧ t.schedule = store ∧ t.replies = s.replies := by
  induction gap generalizing s with
  | nil => exact ⟨s, rfl, h, hs, rfl⟩
  | cons m gap ih =>
    obtain ⟨t, hm, ht, htstore, htreplies⟩ := (h.outside (gap ++ store) s.replies).leadsTo
    obtain ⟨u, hrun, hu, hustore, hureplies⟩ := ih ht htstore
    exact ⟨u, (run_next ((step_cons hs).trans hm)).trans hrun, hu, hustore, hureplies.trans htreplies⟩

/-- A turn of `POLL` in the course of the operation. -/
theorem Operation.Underway.poll (h : op.Underway (gap ++ moves) s) :
    ∃ t, hostTurn gap (.poll :: rest) s = .next ((if t.busy then [.poll] else []) ++ rest, t) ∧
      op.Underway moves t ∧ t.schedule = s.schedule ∧ t.replies = s.replies ++ [.word t.status] := by
  have hqueue := h.outside (gap ++ [.host HostItem.poll.nextLine.txn] ++ s.schedule) s.replies
  obtain ⟨u, hrun, hu, hustore, hureplies⟩ := hqueue.run (List.append_assoc ..)
  refine ⟨_, hostTurn_poll hrun hustore, hu.outside _ _, rfl, ?_⟩
  rw [hureplies]
  rfl

/-- The turns of `POLL` before its last: each reads a busy word, because moves of the operation are still to come. -/
theorem Operation.Underway.polls {early : List (List Move)} (h : op.Underway (early.flatten ++ moves) s)
    (hmoves : early = [] ∨ moves ≠ []) :
    ∃ (t : State) (polled : List Word), hostRun early (.poll :: rest) s = .next (.poll :: rest, t) ∧
      op.Underway moves t ∧ t.schedule = s.schedule ∧ t.replies = s.replies ++ polled.map .word ∧
      polled.length = early.length ∧ ∀ w ∈ polled, pollEnds w = false := by
  induction early generalizing s with
  | nil => exact ⟨s, [], rfl, h, rfl, (List.append_nil _).symm, rfl, nofun⟩
  | cons gap early ih =>
    have hmoves : moves ≠ [] := hmoves.resolve_left (List.cons_ne_nil _ _)
    rw [List.flatten_cons, List.append_assoc] at h
    obtain ⟨t, hturn, ht, htstore, htreplies⟩ := h.poll (rest := rest)
    have hb : t.busy = true := by
      rw [← Bool.not_eq_false, ht.busy_eq_false_iff, List.append_eq_nil_iff]
      exact fun hnil => hmoves hnil.2
    rw [hb] at hturn
    obtain ⟨u, polled, hrun, hu, hustore, hureplies, hlength, hbusy⟩ := ih ht (.inr hmoves)
    refine ⟨u, t.status :: polled, (hostRun_next hturn).trans hrun, hu, hustore.trans htstore, ?_, ?_, ?_⟩
    · rw [hureplies, htreplies, List.append_assoc]
      rfl
    · rw [List.length_cons, List.length_cons, hlength]
    · refine List.forall_mem_cons.2 ⟨?_, hbusy⟩
      rw [pollEnds_status, hb]
      rfl

/-- The end of `ENCRYPTCALL`: `OUTLEN`, and then the bytes that it counts. -/
theorem hostRun_readResult (s : State) :
    hostRun (List.replicate (1 + s.outlen.toNat) []) [.readResult] s = .next ([], { s with
      replies := s.replies ++ [.word s.outlen] ++ (s.flattenedResult Config.hw).map .byte }) := by
  have hread : hostStep HostItem.readResult.nextLine.txn s = .next (s.reply (.word s.outlen)) := hostStep_rd32 s .outlen
  have hturn := hostTurn_noGap (rest := []) hread
  rw [State.lastReply_reply, HostItem.after, List.append_nil] at hturn
  have hbytes := hostRun_readOb (List.range s.outlen.toNat) (s.reply (.word s.outlen))
  rw [List.length_range, hostRead8_reply] at hbytes
  rw [Nat.add_comm, List.replicate_succ, hostRun_next hturn, hbytes, State.flattenedResult, memRead, List.map_map]
  simp only [Nat.zero_add]
  rfl

/-- Settles O57: the operation's moves lead from acceptance to its end, and `POLL` ends with the last of them. -/
theorem encryptCallReadsFlattenedResult : Obligations.EncryptCallReadsFlattenedResult := by
  intro s ctx fails early last hb hmoves hearly result
  obtain ⟨s₁, hcmd, h₁, hstore₁, hreplies₁⟩ := exec_encrypt_underway hb ctx fails
  have hturn : hostTurn [] encryptCallProgram s = .next ([.poll, .readResult], s₁) :=
    hostTurn_noGap ((hostStep_wr32_cmd hb decodeCmd_encrypt).trans hcmd)
  have h₁ : (ofState s ctx fails).Underway (early.flatten ++ last) s₁ := hmoves ▸ h₁
  obtain ⟨s₂, polled, hpolls, h₂, hstore₂, hreplies₂, hlength, hbusy⟩ := h₁.polls (rest := [.readResult]) hearly
  rw [← List.append_nil last] at h₂
  obtain ⟨s₃, hpoll, h₃, hstore₃, hreplies₃⟩ := h₂.poll (rest := [.readResult])
  have hend := h₃.of_nil
  rw [hend.notBusy] at hpoll
  have hread := hostRun_readResult s₃
  rw [hend.outlen, hend.flattened] at hread
  refine ⟨{ s₃ with replies := s₃.replies ++ [.word s₃.outlen] ++ result.flatten.map .byte }, polled ++ [s₃.status],
    ?run, ?replies, hend.outlen, ?length, ?busyWords, ?lastWord, hend.notBusy, hend.tagged, ?store⟩
  case run =>
    rw [List.cons_append, hostRun_next hturn, hostRun_append hpolls, hostRun_next hpoll]
    exact hread
  case replies =>
    rw [hreplies₃, hreplies₂, hreplies₁, List.map_append, List.append_assoc s.replies]
    rfl
  case length => simp [hlength]
  case busyWords => rwa [List.dropLast_concat]
  case lastWord => exact List.getLast?_concat
  case store => exact hstore₃.trans (hstore₂.trans hstore₁)

end Sys2Proof.Machine
end

section
/-! PROOFS. The index rule (R91), `GETID` (R94) with the key that its words give away (R98), and `DERIVE` with `ALLOC`
(R95, R104). -/

namespace Sys2Proof.Machine

open Sys2Proof

variable {s t : State}

/-! ### The index rule -/

theorem idx_inRange {n : Int} (h₀ : 0 ≤ n) (h₃ : n ≤ 3) : ((idx n).val : Int) = n := by
  rw [idx, dif_pos ⟨h₀, h₃⟩]
  exact Int.toNat_of_nonneg h₀

theorem idx_outOfRange {n : Int} (h : n < 0 ∨ 3 < n) : idx n = 0 := dif_neg (by omega)

/-- Settles O9: in range, out of range, and on 32-bit words, where a negative one is a large unsigned one. -/
theorem indexRuleDoesNotSaturate : Obligations.IndexRuleDoesNotSaturate :=
  ⟨fun _ => idx_inRange, fun _ => idx_outOfRange, idx_toInt⟩

/-! ### `GETID` -/

/-- Settles O10: `GETID` writes `IDWORD`, `CMDERR` and one event, and the buffers hold what they held. -/
theorem getidReturnsSelectedWord : Obligations.GetidReturnsSelectedWord := by
  refine ⟨fun s hb => ⟨_, exec_getid hb, rfl, rfl, rfl, rfl, rfl, rfl, rfl, ?operands, ?ob, ?internal, ?outside⟩,
    fun _ => exec_getid_busy⟩
  case operands => exact ⟨rfl, rfl, fun _ => rfl⟩
  case ob => exact fun _ => rfl
  case internal => exact ⟨rfl, rfl, rfl, rfl, rfl⟩
  case outside => exact ⟨rfl, rfl, rfl, rfl⟩

/-- The word that `GETID` returns for an index in range (R91, R94). -/
theorem exec_getid_idword {k : Fin 4} (hb : s.busy = false) (hk : idx s.signedIndex = k)
    (h : exec .getid s = .next t) : t.idword = Config.hw.devid k := by
  cases (exec_getid hb).symm.trans h
  exact congrArg Config.hw.devid hk

/-- A byte of the key is the byte of the identifier word that its place modulo 8 falls in (R93). -/
theorem deriveKey_word_byte (c : Config) {n : Nat} (hn : n < 16) {k j : Fin 4} (h : n % 8 = 4 * k.val + j.val) :
    (deriveKey c)[n] = wordByte (c.devid k) j.val := by
  have hplace : (⟨n % 8, by omega⟩ : Fin 16) = ⟨4 * k.val + j.val, by omega⟩ := Fin.ext h
  calc (deriveKey c)[n] = did c ⟨n % 8, by omega⟩ := deriveKey_getElem c ⟨n, hn⟩
    _ = did c ⟨4 * k.val + j.val, by omega⟩ := by rw [hplace]
    _ = wordByte (c.devid k) j.val := did_word_byte c k j

/-- Settles O12: the two words returned are words 0 and 1, whose bytes make up either half of the key. -/
theorem keyRecoverableFromTwoGetids : Obligations.KeyRecoverableFromTwoGetids := by
  intro s₀ s₁ t₀ t₁ hb₀ hb₁ hi₀ hi₁ h₀ h₁ j half
  have hword₀ : t₀.idword = Config.hw.devid 0 :=
    exec_getid_idword hb₀ (by rw [State.signedIndex, hi₀]; decide) h₀
  have hword₁ : t₁.idword = Config.hw.devid 1 :=
    exec_getid_idword hb₁ (by rw [State.signedIndex, hi₁]; decide) h₁
  rw [hword₀, hword₁]
  exact ⟨deriveKey_word_byte _ (by omega) (k := 0) (by omega),
    deriveKey_word_byte _ (by omega) (k := 1) (by omega)⟩

/-! ### `DERIVE` -/

/-- Settles O13: the writes of `DERIVE` and `ALLOC`; the block count is exact because an accepted one has at most 13
bits. -/
theorem deriveWritesKeyAndAllocates : Obligations.DeriveWritesKeyAndAllocates := by
  intro s hs hp
  refine ⟨_, exec_derive hs hp, rfl, rfl, toNat_nblk, rfl, rfl, hp, ?noBlock, ?blocks, ?history, rfl, rfl, rfl, rfl, rfl,
    ?operands, ?ob, ?outside⟩
  case noBlock => exact fun h0 => if_pos h0
  case blocks => exact fun h0 => if_neg h0
  case history => exact List.append_assoc s.history [.idRead 0] [.idRead 1]
  case operands => exact ⟨rfl, rfl, fun _ => rfl⟩
  case ob => exact fun _ => rfl
  case outside => exact ⟨rfl, rfl, rfl, rfl⟩

end Sys2Proof.Machine
end

section
/-! PROOFS. The block count (R104) and the padded block (R105, R106). -/

namespace Sys2Proof.Machine

open Sys2Proof

/-- The block count is the least number of blocks that holds the bytes (R104). -/
theorem ceil16_le_iff {L n : Nat} : ceil16 L ≤ n ↔ L ≤ 16 * n := by
  rw [ceil16]
  omega

/-- A last block of 1 to 16 bytes counts as one (R104). -/
theorem ceil16_blocks_add {q r : Nat} (h₁ : 1 ≤ r) (h₂ : r ≤ 16) : ceil16 (16 * q + r) = q + 1 := by
  rw [ceil16]
  omega

/-- Settles O14: the count is a least number, and a length that fits is at most `CAP`, a multiple of 16. -/
theorem blockCountIsCeiling : Obligations.BlockCountIsCeiling :=
  ⟨fun _ _ => ceil16_le_iff.symm, fun _ _ => ceil16_blocks_add, rfl, fun _ _ h => ⟨ceil16_fits h, ceil16_le h⟩⟩

/-! ### The padded block -/

variable {f : Nat → Byte} {L i j : Nat}

/-- The bytes of a window are those of the cleartext's 16 that exist (R105). -/
theorem lt_avail_iff (hj : j < 16) : j < avail L i ↔ 16 * i + j < L := by
  rw [avail]
  omega

/-- Byte `j` of a window (R105). -/
theorem win_getD (h : j < avail L i) : (win f L i).getD j 0 = f (16 * i + j) := by
  have hj : j < (win f L i).length := by rw [win, memRead_length]; exact h
  rw [← List.getElem_eq_getD (h := hj)]
  exact memRead_getElem ..

/-- A byte of the window is copied unless `ZERO_STOP` is set and it or a byte before it is zero (R106). -/
theorem lt_ncopy_iff (z : Bool) : j < ncopy z (win f L i) ↔
    j < avail L i ∧ (z = true → ∀ k ≤ j, f (16 * i + k) ≠ 0) := by
  cases z with
  | false => simp [ncopy, win]
  | true => simp [ncopy, win, List.lt_findIdx_iff]

/-- Byte `j` of a padded block, for either value of `ZERO_STOP` (R106). Whether byte `j` itself is zero need not be
asked, since a zero byte and a padding byte are the same. -/
theorem padblock_getElem (z : Bool) (f : Nat → Byte) (L i : Nat) (j : Fin 16) : (padblock z f L i)[j] =
    if 16 * i + j.val < L ∧ (z = true → ∀ k, k < j.val → f (16 * i + k) ≠ 0) then f (16 * i + j.val) else 0 := by
  rw [padblock, padWindow_getElem]
  simp only [lt_ncopy_iff, lt_avail_iff j.isLt]
  split_ifs with hcopied hthere hthere
  · exact win_getD ((lt_avail_iff j.isLt).2 hthere.1)
  · exact absurd ⟨hcopied.1, fun hz k hk => hcopied.2 hz k hk.le⟩ hthere
  · by_contra hne
    refine hcopied ⟨hthere.1, fun hz k hk => ?_⟩
    rcases hk.eq_or_lt with rfl | hk
    · exact Ne.symm hne
    · exact hthere.2 hz k hk
  · rfl

theorem block_ext {a b : Block} (h : ∀ j : Fin 16, a[j] = b[j]) : a = b := Vector.ext fun j hj => h ⟨j, hj⟩

/-- Where nothing but zero bytes follows a zero byte of the window, `ZERO_STOP` makes no difference (R106). -/
theorem padblock_zeroStop_irrelevant
    (h : ∀ j k, j < k → k < avail L i → f (16 * i + j) = 0 → f (16 * i + k) = 0) :
    padblock true f L i = padblock false f L i := by
  refine block_ext fun j => ?_
  rw [padblock_getElem, padblock_getElem]
  by_cases hj : f (16 * i + j.val) = 0
  · rw [hj, ite_self, ite_self]
  · refine if_congr (and_congr_right fun hL => ?_) rfl rfl
    exact iff_of_true (fun _ k hk hk0 => hj (h k j hk ((lt_avail_iff j.isLt).2 hL) hk0)) nofun

/-- Zero bytes at the end of the text are the same as padding (R106). -/
theorem padblock_trailing_zeros (z : Bool) {M : Nat} (hM : M ≤ L) (h : ∀ k, M ≤ k → k < L → f k = 0) :
    padblock z f L i = padblock z f M i := by
  refine block_ext fun j => ?_
  rw [padblock_getElem, padblock_getElem]
  by_cases hj : M ≤ 16 * i + j.val ∧ 16 * i + j.val < L
  · rw [h _ hj.1 hj.2, ite_self, ite_self]
  · have hsame : 16 * i + j.val < L ↔ 16 * i + j.val < M := by omega
    exact if_congr (and_congr_left fun _ => hsame) rfl rfl

/-- Settles O18, each clause from the bytes of the block. -/
theorem paddedBlockByteByByte : Obligations.PaddedBlockByteByByte := by
  refine ⟨fun f L i j => ?_, fun f L i j => ?_, fun f L i => padblock_zeroStop_irrelevant, fun z f g L i h => ?_,
    fun z f L M i => padblock_trailing_zeros z⟩
  · simpa using padblock_getElem false f L i j
  · simpa using padblock_getElem true f L i j
  · refine padblock_congr fun k hk => ?_
    rw [avail] at hk
    exact h _ (by omega) (by omega) (by omega)

end Sys2Proof.Machine
end

section
/-! PROOFS. `ENCRYPT` (R100, R101), `CTXCHK` (R103) and `BUILD` (R107): what each writes, what it leaves, and that no
other instruction than `CTXCHK` looks at the context input. -/

namespace Sys2Proof.Machine

open Sys2Proof

variable {s t : State}

/-- Outside `DONE` the gate is shut at every offset of the `OB` aperture (R43). -/
theorem hostRead8_obByte_shut {c : Config} {off : Offset} (hs : s.state ≠ .done)
    (hoff : ∃ a, regionOf c off = .obByte a) : hostRead8 c s off = 0 := by
  obtain ⟨a, ha⟩ := hoff
  simp only [hostRead8, ha]
  exact if_neg fun hgate => hs hgate.1

/-- Settles O15: `ENCRYPT` writes `STATE`, `CMDERR`, `ERR`, `OUTLEN` and `PH`, and `STATE` shuts the gate. -/
theorem encryptAcceptedWhenItFits : Obligations.EncryptAcceptedWhenItFits := by
  refine ⟨fun s hb hl => ⟨_, exec_encrypt_accept hb hl, rfl, rfl, rfl, rfl, rfl, rfl, ?status, ?word, ?gate, rfl, rfl,
    ?operands, ?ob, ?internal, ?outside⟩, fun _ => exec_encrypt_busy⟩
  case status =>
    rw [status_of (q := .ctxcheck) (ph := false) (cmderr := false) (err := none) rfl rfl rfl rfl]
    decide
  case word => exact (decodeSeq_none _).trans rfl
  case gate => exact fun off hoff => hostRead8_obByte_shut nofun hoff
  case operands => exact ⟨rfl, rfl, fun _ => rfl⟩
  case ob => exact fun _ => rfl
  case internal => exact ⟨rfl, rfl, rfl, rfl, rfl⟩
  case outside => exact ⟨rfl, rfl, rfl, rfl⟩

/-- Settles O16: the refusal clears what the acceptance clears and makes the abort entry. -/
theorem encryptRefusesTooLong : Obligations.EncryptRefusesTooLong := by
  refine ⟨fun s hb hl => ⟨_, exec_encrypt_refuse hb hl, rfl, rfl, rfl, rfl, rfl, rfl, ?status, rfl, rfl,
    ?operands, ?ob, ?internal, ?outside⟩, fun _ => ceil16_fits⟩
  case status =>
    rw [status_of (q := .aborted) (ph := false) (cmderr := false) (err := some .lengthRefused) rfl rfl rfl rfl]
    decide
  case operands => exact ⟨rfl, rfl, fun _ => rfl⟩
  case ob => exact fun _ => rfl
  case internal => exact ⟨rfl, rfl, rfl, rfl, rfl⟩
  case outside => exact ⟨rfl, rfl, rfl, rfl⟩

/-! ### The context input -/

/-- The level of the context input enters no instruction but `CTXCHK` (R103). -/
theorem exec_ctxReady {i : Instr} (hi : i ≠ .ctxchk) (level : Bool) (h : exec i s = .next t) :
    exec i { s with ctxReady := level } = .next { t with ctxReady := level } := by
  cases i with
  | ctxchk => exact absurd rfl hi
  | getid =>
    cases hb : s.busy with
    | false => cases (exec_getid hb).symm.trans h; exact exec_getid hb
    | true => cases (exec_getid_busy hb).symm.trans h; exact exec_getid_busy hb
  | encrypt =>
    cases hb : s.busy with
    | true => cases (exec_encrypt_busy hb).symm.trans h; exact exec_encrypt_busy hb
    | false =>
      by_cases hl : s.length ≤ Config.hw.cap
      · cases (exec_encrypt_accept hb hl).symm.trans h
        exact exec_encrypt_accept hb hl
      · cases (exec_encrypt_refuse hb (Nat.not_le.1 hl)).symm.trans h
        exact exec_encrypt_refuse hb (Nat.not_le.1 hl)
  | derive =>
    by_cases hs : s.state = .derive ∧ s.ph = false
    · cases (exec_derive hs.1 hs.2).symm.trans h
      exact exec_derive hs.1 hs.2
    · cases (exec_derive_disabled hs).symm.trans h
      exact exec_derive_disabled hs
  | build =>
    by_cases hs : s.state = .encrypting ∧ s.ph = false
    · cases hr : inBuffer Config.hw (16 * s.i.toNat) (avail s.length s.i.toNat) with
      | false => cases (exec_build_fault hs.1 hs.2 hr).symm.trans h
      | true =>
        cases (exec_build hs.1 hs.2 hr).symm.trans h
        exact exec_build hs.1 hs.2 hr
    · cases (exec_build_disabled hs).symm.trans h
      exact exec_build_disabled hs
  | respOk =>
    cases ho : s.owed with
    | false => cases (exec_respOk_notOwed ho).symm.trans h
    | true =>
      cases hr : inBuffer Config.hw (16 * s.i.toNat) 16 with
      | false => cases (exec_respOk_fault ho hr).symm.trans h
      | true => cases (exec_respOk ho hr).symm.trans h; exact exec_respOk ho hr
  | respFail =>
    cases ho : s.owed with
    | false => cases (exec_respFail_notOwed ho).symm.trans h
    | true => cases (exec_respFail ho).symm.trans h; exact exec_respFail ho

/-- Settles O17: the sample decides between `DERIVE` and the abort entry, and no other instruction takes one. -/
theorem contextGateDecides : Obligations.ContextGateDecides := by
  refine ⟨fun s hs hp => ?_, fun i s t level hi h => exec_ctxReady hi level h⟩
  cases hc : s.ctxReady with
  | true =>
    exact ⟨_, exec_ctxchk_ready hs hp hc, rfl, fun _ => ⟨rfl, rfl, rfl⟩, nofun, hp, rfl, rfl, ⟨rfl, rfl, fun _ => rfl⟩,
      fun _ => rfl, ⟨rfl, rfl, rfl, rfl, rfl⟩, ⟨rfl, rfl, rfl, rfl⟩⟩
  | false =>
    exact ⟨_, exec_ctxchk_notReady hs hp hc, rfl, nofun, fun _ => ⟨rfl, rfl, rfl, rfl⟩, rfl, rfl, rfl,
      ⟨rfl, rfl, fun _ => rfl⟩, fun _ => rfl, ⟨rfl, rfl, rfl, rfl, rfl⟩, ⟨rfl, rfl, rfl, rfl⟩⟩

/-! ### The request -/

/-- Settles O19: the window of a block below the count lies in the cleartext, so in `CT` (R54). -/
theorem buildRequestsPaddedBlock : Obligations.BuildRequestsPaddedBlock := by
  intro s hs hp hi hl
  have hin : inBuffer Config.hw (16 * s.i.toNat) (avail s.length s.i.toNat) = true :=
    (inBuffer_iff ..).2 (.inr ((window_end hi).trans hl))
  exact ⟨_, exec_build hs hp hin, rfl, rfl, rfl, rfl, rfl, rfl, rfl, rfl, rfl, rfl, rfl, rfl, rfl,
    ⟨rfl, rfl, fun _ => rfl⟩, fun _ => rfl, ⟨rfl, rfl, rfl, rfl⟩⟩

end Sys2Proof.Machine
end

section
/-! PROOFS. How many requests, identifier reads and context samples an operation takes (R111). -/

namespace Sys2Proof.Machine

open Sys2Proof

variable {c : Config} {key : Block} {ct : Nat → Byte} {L : Nat} {fails : Nat → Bool}

/-- The blocks of an operation read no identifier word (R95). -/
theorem blockEvents_countP_isIdRead (i n : Nat) :
    (blockEvents c key ct L fails i n).countP PortEvent.isIdRead = 0 := by
  induction n generalizing i with
  | zero => rfl
  | succ n ih => cases hf : fails i <;> simp [blockEvents, hf, PortEvent.isIdRead, ih]

/-- The blocks of an operation take no context sample (R103). -/
theorem blockEvents_countP_isSample (i n : Nat) :
    (blockEvents c key ct L fails i n).countP PortEvent.isSample = 0 := by
  induction n generalizing i with
  | zero => rfl
  | succ n ih => cases hf : fails i <;> simp [blockEvents, hf, PortEvent.isSample, ih]

/-- Where no request fails there is one for each block. -/
theorem blockEvents_countP_isRequest_of_ok {i n : Nat} (h : ∀ j < n, fails (i + j) = false) :
    (blockEvents c key ct L fails i n).countP PortEvent.isRequest = n := by
  induction n generalizing i with
  | zero => rfl
  | succ n ih =>
    have hrest : ∀ j < n, fails (i + 1 + j) = false := fun j hj => by
      rw [Nat.add_assoc, Nat.add_comm 1]; exact h (j + 1) (by omega)
    have hf : fails i = false := h 0 (by omega)
    simp [blockEvents, hf, List.countP_cons, PortEvent.isRequest, ih hrest]

/-- The first request that fails is the last. -/
theorem blockEvents_countP_isRequest_of_fails {i n k : Nat} (hk : k < n) (hfail : fails (i + k) = true)
    (hok : ∀ j < k, fails (i + j) = false) :
    (blockEvents c key ct L fails i n).countP PortEvent.isRequest = k + 1 := by
  induction n generalizing i k with
  | zero => omega
  | succ n ih =>
    cases k with
    | zero =>
      have hf : fails i = true := hfail
      simp [blockEvents, hf, List.countP_cons, PortEvent.isRequest]
    | succ k =>
      have hf : fails i = false := hok 0 (by omega)
      have hrest := ih (i := i + 1) (k := k) (by omega) (by rw [← hfail]; congr 1; omega) fun j hj => by
        rw [← hok (j + 1) (by omega)]; congr 1; omega
      simp [blockEvents, hf, List.countP_cons, PortEvent.isRequest, hrest]

/-- The events of an operation that comes to its blocks: one sample, two identifier reads, and those of the blocks. -/
theorem operationEvents_countP {ctx : Bool} (hL : L ≤ c.cap) (hctx : ctx = true) :
    (operationEvents c ct L ctx fails).countP PortEvent.isRequest =
      (blockEvents c (deriveKey c) ct L fails 0 (ceil16 L)).countP PortEvent.isRequest ∧
    (operationEvents c ct L ctx fails).countP PortEvent.isIdRead = 2 ∧
    (operationEvents c ct L ctx fails).countP PortEvent.isSample = 1 := by
  rw [operationEvents, if_neg (Nat.not_lt.2 hL), hctx, if_neg (by decide)]
  simp [List.countP_cons, PortEvent.isRequest, PortEvent.isIdRead, PortEvent.isSample, blockEvents_countP_isIdRead,
    blockEvents_countP_isSample]

/-- Settles O51: the events before the blocks are written out, and those of the blocks are counted by induction. -/
theorem invocationCounts : Obligations.InvocationCounts := by
  intro c ct L ctx fails ev
  refine ⟨fun hL => ?refused, fun hL hctx => ?unavailable, fun hL hctx k hk => ?failure, fun hL hctx hnone => ?success⟩
  case refused => simp [ev, operationEvents, hL]
  case unavailable =>
    simp [ev, operationEvents, Nat.not_lt.2 hL, hctx, PortEvent.isRequest, PortEvent.isIdRead, PortEvent.isSample]
  case failure =>
    obtain ⟨hfail, hrange, hok⟩ := List.find?_range_eq_some.1 hk
    obtain ⟨hrequests, hrest⟩ := operationEvents_countP (ct := ct) (fails := fails) hL hctx
    refine ⟨hrequests.trans ?_, hrest⟩
    exact blockEvents_countP_isRequest_of_fails (List.mem_range.1 hrange) (by simpa using hfail) (by simpa using hok)
  case success =>
    have hok := List.find?_range_eq_none.1 hnone
    obtain ⟨hrequests, hrest⟩ := operationEvents_countP (ct := ct) (fails := fails) hL hctx
    exact ⟨hrequests.trans (blockEvents_countP_isRequest_of_ok (by simpa using hok)), hrest⟩

end Sys2Proof.Machine
end

section
/-! PROOFS. Host transactions and changes of the context input in the course of an operation (R47, R53, R112). -/

namespace Sys2Proof.Machine

open Sys2Proof

variable {s : State}

/-- While busy a host transaction does no more than record what it read (R47, R53). -/
theorem hostStep_busy (hb : s.busy = true) (x : HostTxn) :
    ∃ r, hostStep x s = .next { s with replies := s.replies ++ r } := by
  cases x with
  | read32 off => exact ⟨[_], rfl⟩
  | read8 off => exact ⟨[_], rfl⟩
  | write32 off v => exact ⟨[], by rw [(hostStep_write_busy hb off).1 v, List.append_nil]⟩
  | write8 off v => exact ⟨[], by rw [(hostStep_write_busy hb off).2 v, List.append_nil]⟩

/-- Settles O37: a host transaction records at most a reply, and a move of `CTX` sets the level of its input. -/
theorem hostCannotDisturbOperation : Obligations.HostCannotDisturbOperation := by
  rintro s hb (⟨x, hm⟩ | ⟨level, hm⟩)
  · have hstep : step s = hostStep x s.pop := congrArg (perform · s.pop) hm
    obtain ⟨r, hr⟩ := hostStep_busy (s := s.pop) hb x
    exact ⟨s.ctxReady, r, hstep.trans hr⟩
  · have hstep : step s = .next { s.pop with ctxReady := level } := congrArg (perform · s.pop) hm
    exact ⟨level, [], by rw [List.append_nil]; exact hstep⟩

/-- While busy a row of host transactions does no more than record what they read. -/
theorem run_host_busy {txns : List HostTxn} {store : List Move} (hb : s.busy = true)
    (hs : s.schedule = txns.map .host ++ store) :
    ∃ r, Host.Core.run core txns.length s = .next { s with schedule := store, replies := s.replies ++ r } := by
  induction txns generalizing s with
  | nil =>
    have hs : s.schedule = store := hs
    exact ⟨[], by rw [List.append_nil, ← hs]; rfl⟩
  | cons x txns ih =>
    obtain ⟨r, hr⟩ := hostStep_busy (s := { s with schedule := txns.map .host ++ store }) hb x
    obtain ⟨r', hrun⟩ := ih (s := { s with schedule := txns.map .host ++ store, replies := s.replies ++ r }) hb rfl
    exact ⟨r ++ r', by rw [List.length_cons, run_next ((step_cons hs).trans hr), hrun, List.append_assoc]⟩

end Sys2Proof.Machine
end

section
/-! PROOFS. The port events of an operation (R111): those that are still to come are a function of the state, and each
move of the operation moves one stretch of them into the history. -/

namespace Sys2Proof.Machine.Operation

open Sys2Proof

variable {op : Operation} {s t : State} {moves : List Move}

/-! ### The events to come -/

/-- The port events that are still to come in a state of the operation. With a request outstanding, the first event of
its block is already in the history (R107). -/
def eventsLeft (op : Operation) (t : State) : List PortEvent :=
  match t.state with
  | .ctxcheck => operationEvents Config.hw op.ct op.len op.ctx op.fails
  | .derive =>
    .idRead 0 :: .idRead 1 :: blockEvents Config.hw (deriveKey Config.hw) op.ct op.len op.fails 0 (ceil16 op.len)
  | .encrypting =>
    let blocks := blockEvents Config.hw t.key op.ct op.len op.fails t.i.toNat (t.nblk.toNat - t.i.toNat)
    if t.ph then blocks.tail else blocks
  | .idle => []
  | .done => []
  | .aborted => []

theorem eventsLeft_notBusy (hb : t.busy = false) : op.eventsLeft t = [] := by
  rcases State.not_busy_iff.1 hb with hs | hs | hs <;> simp only [eventsLeft, hs]

/-- The events to come between two blocks, whether the operation goes on or ends there (R95, R121). -/
theorem eventsLeft_betweenBlocks {i n : Nat} (hs : t.state = if n = 0 then .done else .encrypting)
    (hp : t.ph = false) (hi : t.i.toNat = i) (hn : t.nblk.toNat = i + n) :
    op.eventsLeft t = blockEvents Config.hw t.key op.ct op.len op.fails i n := by
  have hcount : t.nblk.toNat - i = n := by omega
  cases n with
  | zero => simp only [eventsLeft, hs, if_true, blockEvents]
  | succ n => simp only [eventsLeft, hs, hp, hi, hcount, Nat.succ_ne_zero, Bool.false_eq_true, if_false]

/-- With a request outstanding, its response and the events of the blocks after it are to come. -/
theorem eventsLeft_beforeResponse {i n : Nat} (hs : t.state = .encrypting) (hp : t.ph = true) (hi : t.i.toNat = i)
    (hn : t.nblk.toNat = i + (n + 1)) :
    op.eventsLeft t = if op.fails i then [.primFail] else
      .primOk (Config.hw.e t.key (padblock Config.hw.zeroStop op.ct op.len i)) ::
        blockEvents Config.hw t.key op.ct op.len op.fails (i + 1) n := by
  have hcount : t.nblk.toNat - i = n + 1 := by omega
  simp only [eventsLeft, hs, hp, hi, hcount, if_true, blockEvents, List.tail_cons]

/-! ### The moves of an operation, one by one -/

/-- The events in the history together with those to come are the same in both states. -/
def SameEvents (op : Operation) (s t : State) : Prop :=
  t.history ++ op.eventsLeft t = s.history ++ op.eventsLeft s

/-- A move that records the events `recorded`, the first of those that were to come. -/
theorem SameEvents.of_recorded (recorded : List PortEvent) {left : List PortEvent}
    (hh : t.history = s.history ++ recorded) (hs : op.eventsLeft s = recorded ++ left)
    (ht : op.eventsLeft t = left) : op.SameEvents s t := by
  rw [SameEvents, hh, hs, ht, List.append_assoc]

/-- `CTXCHK` takes the sample (R103). -/
theorem ctxchk_sameEvents (held : op.Held s) (hs : s.state = .ctxcheck) (hp : s.ph = false)
    (hc : s.ctxReady = op.ctx) (h : ctrlStep s = .next t) : op.SameEvents s t := by
  have hleft : op.eventsLeft s = operationEvents Config.hw op.ct op.len op.ctx op.fails := by
    simp only [eventsLeft, hs]
  rw [operationEvents, if_neg (Nat.not_lt.2 held.fits)] at hleft
  rw [ctrlStep_ctxcheck hs hp] at h
  cases hctx : op.ctx with
  | true =>
    rw [hctx] at hc hleft
    cases (exec_ctxchk_ready hs hp hc).symm.trans h
    exact .of_recorded [.ctxSample true] rfl hleft rfl
  | false =>
    rw [hctx] at hc hleft
    cases (exec_ctxchk_notReady hs hp hc).symm.trans h
    exact .of_recorded [.ctxSample false] rfl hleft rfl

/-- `DERIVE` reads the two identifier words (R95). -/
theorem derive_sameEvents (held : op.Held s) (hs : s.state = .derive) (hp : s.ph = false)
    (h : ctrlStep s = .next t) : op.SameEvents s t := by
  have hn : (BitVec.ofNat 16 (ceil16 s.length)).toNat = ceil16 op.len := by rw [held.len]; exact toNat_nblk held.fits
  have hloop : BitVec.ofNat 16 (ceil16 s.length) = 0 ↔ ceil16 op.len = 0 := by rw [BitVec.toNat_eq, ← hn]; rfl
  cases ((ctrlStep_derive hs hp).trans (exec_derive hs hp)).symm.trans h
  exact .of_recorded [.idRead 0, .idRead 1] (List.append_assoc s.history [.idRead 0] [.idRead 1])
    (by simp only [eventsLeft, hs]; rfl)
    (eventsLeft_betweenBlocks (if_congr hloop rfl rfl) hp rfl (hn.trans (Nat.zero_add _).symm))

/-- `BUILD` issues the request of its block (R107). -/
theorem build_sameEvents {i n : Nat} (held : op.Held s) (hs : s.state = .encrypting) (hp : s.ph = false)
    (between : op.Between i (n + 1) s) (h : ctrlStep s = .next t) : op.SameEvents s t := by
  rw [ctrlStep_build hs hp] at h
  cases hr : inBuffer Config.hw (16 * s.i.toNat) (avail s.length s.i.toNat) with
  | false => cases (exec_build_fault hs hp hr).symm.trans h
  | true =>
    cases (exec_build hs hp hr).symm.trans h
    rw [held.ct, held.len, between.index]
    exact .of_recorded [.primRequest s.key (padblock Config.hw.zeroStop op.ct op.len i)] rfl
      (eventsLeft_betweenBlocks hs hp between.index between.count)
      (eventsLeft_beforeResponse hs rfl between.index between.count)

/-- A response is recorded, and after a failing one no block is to come (R121, R122). -/
theorem response_sameEvents {i n : Nat} (hs : s.state = .encrypting) (hp : s.ph = true)
    (between : op.Between i (n + 1) s) (hb : s.iblk = padblock Config.hw.zeroStop op.ct op.len i)
    (h : primStep (!op.fails i) s = .next t) : op.SameEvents s t := by
  have hi := between.index
  have hn := between.count
  have ho := State.owed_iff.2 ⟨hs, hp⟩
  have hleft := eventsLeft_beforeResponse (op := op) hs hp hi hn
  rw [primStep_owed ho] at h
  cases hf : op.fails i with
  | true =>
    rw [hf] at h hleft
    cases (exec_respFail ho).symm.trans h
    exact .of_recorded [.primFail] rfl hleft rfl
  | false =>
    rw [hf] at h hleft
    cases hr : inBuffer Config.hw (16 * s.i.toNat) 16 with
    | false => cases (exec_respOk_fault ho hr).symm.trans h
    | true =>
      have hnext : (s.i + 1).toNat = i + 1 := by bv_omega
      have hlast : s.i + 1 = s.nblk ↔ n = 0 := by rw [BitVec.toNat_eq, hnext, hn]; omega
      rw [← hb] at hleft
      cases (exec_respOk ho hr).symm.trans h
      exact .of_recorded [.primOk (Config.hw.e s.key s.iblk)] rfl hleft
        (eventsLeft_betweenBlocks (if_congr hlast rfl rfl) rfl hnext (hn.trans (by omega)))

/-- Every move of an operation records what it takes from the events to come. -/
theorem Underway.sameEvents {m : Move} (h : op.Underway (m :: moves) s) (hm : perform m s = .next t) :
    op.SameEvents s t := by
  generalize hall : m :: moves = all at h
  cases h with
  | accepted held hs hp => cases hall; cases hm; rfl
  | beforeCtxchk held hs hp hc => cases hall; exact ctxchk_sameEvents held hs hp hc hm
  | beforeDerive held hs hp hc => cases hall; exact derive_sameEvents held hs hp hm
  | beforeBuild held hs hp between => cases hall; exact build_sameEvents held hs hp between hm
  | beforeResponse held hs hp between hb => cases hall; exact response_sameEvents hs hp between hb hm
  | ended h => cases hall

/-! ### The whole operation -/

/-- A run through all the moves of an operation, with host transactions before each of them, ends the operation and
records the events that were to come. -/
theorem Underway.run_weave {noise : Nat → List HostTxn} {k : Nat} {rest : List Move} (h : op.Underway moves s)
    (hs : s.schedule = weave noise k moves ++ rest) :
    ∃ t, Host.Core.run core (weave noise k moves).length s = .next t ∧ op.Ended t ∧ t.schedule = rest ∧
      t.history = s.history ++ op.eventsLeft s := by
  induction moves generalizing s k with
  | nil =>
    have hend := h.of_nil
    exact ⟨s, rfl, hend, hs, by rw [eventsLeft_notBusy hend.notBusy, List.append_nil]⟩
  | cons m moves ih =>
    have hb : s.busy = true := by
      rw [← Bool.not_eq_false, h.busy_eq_false_iff]
      exact List.cons_ne_nil _ _
    rw [weave, List.append_assoc, List.cons_append] at hs
    obtain ⟨r, hnoise⟩ := run_host_busy hb hs
    obtain ⟨t, hm, ht, htstore, -⟩ := (h.outside (weave noise (k + 1) moves ++ rest) (s.replies ++ r)).leadsTo
    have hevents := (h.outside (weave noise (k + 1) moves ++ rest) (s.replies ++ r)).sameEvents hm
    obtain ⟨u, hrun, hu, hustore, huhistory⟩ := ih ht htstore
    refine ⟨u, ?_, hu, hustore, huhistory.trans hevents⟩
    rw [weave, List.length_append, List.length_map, run_add hnoise, List.length_cons,
      run_next ((step_cons rfl).trans hm), hrun]

/-- The events to come when `ENCRYPT` has been accepted or refused are those of the operation (R100, R101). -/
theorem exec_encrypt_eventsLeft {ctx : Bool} {fails : Nat → Bool} (hb : s.busy = false)
    (h : exec .encrypt s = .next t) : t.history ++ (ofState s ctx fails).eventsLeft t =
      s.history ++ operationEvents Config.hw (s.ctByte Config.hw) s.length ctx fails := by
  by_cases hfit : s.length ≤ Config.hw.cap
  · cases (exec_encrypt_accept hb hfit).symm.trans h
    rfl
  · cases (exec_encrypt_refuse hb (Nat.not_le.1 hfit)).symm.trans h
    rw [eventsLeft_notBusy rfl, operationEvents, if_pos (Nat.not_le.1 hfit)]
    rfl

/-- Settles O50: `ENCRYPT` leaves the events of the operation to come, and its run records them all. -/
theorem operationPortHistory : Obligations.OperationPortHistory := by
  intro s ctx fails noise rest hb hs
  have hb' : ({ s with schedule := weave noise 0 (operationMoves Config.hw s.len.toNat ctx fails) ++ rest } :
    State).busy = false := hb
  obtain ⟨t, hcmd, ht, htstore, -⟩ := exec_encrypt_underway hb' ctx fails
  obtain ⟨u, hrun, -, -, huhistory⟩ := ht.run_weave htstore
  have hstep := (step_cons hs).trans ((hostStep_wr32_cmd hb' decodeCmd_encrypt).trans hcmd)
  exact ⟨u, (run_next hstep).trans hrun, huhistory.trans (exec_encrypt_eventsLeft hb' hcmd)⟩

end Sys2Proof.Machine.Operation
end

section
/-! PROOFS. The two arms of `RESP` (R120, R121, R122). -/

namespace Sys2Proof.Machine

open Sys2Proof

/-- Settles O22: neither arm finds a response owed. -/
theorem responseRefusedWhenNotOwed : Obligations.ResponseRefusedWhenNotOwed := by
  intro s h
  have ho : s.owed = false := eq_false_of_ne_true (mt State.owed_iff.1 h)
  exact ⟨exec_respOk_notOwed ho, exec_respFail_notOwed ho⟩

/-- Settles O21: the arm records its event and makes the abort entry, and `STATE` shuts the gate. -/
theorem respFailDiscards : Obligations.RespFailDiscards := by
  intro s hs hp
  exact ⟨_, exec_respFail (State.owed_iff.2 ⟨hs, hp⟩), rfl, rfl, rfl, rfl, rfl, rfl,
    fun _ hoff => hostRead8_obByte_shut nofun hoff, rfl, rfl, ⟨rfl, rfl, fun _ => rfl⟩, fun _ => rfl,
    ⟨rfl, rfl, rfl, rfl, rfl⟩, ⟨rfl, rfl, rfl, rfl⟩⟩

/-- Settles O20: the bytes of `OB` are those that the append writes and leaves, and `CAP` keeps the counts from
wrapping. -/
theorem respOkAppendsBlock : Obligations.RespOkAppendsBlock := by
  intro s hs hp hfit
  have hcap := cap_le Config.hw
  have hin : inBuffer Config.hw (16 * s.i.toNat) 16 = true := (inBuffer_iff ..).2 (.inr hfit)
  refine ⟨_, exec_respOk (State.owed_iff.2 ⟨hs, hp⟩) hin, rfl, State.obByte_writeOb_inside Config.hw s _ _,
    fun a => State.obByte_writeOb_outside Config.hw s _ _, rfl, rfl, rfl, ?index, fun ho => ?outlen,
    fun hlast => if_pos hlast, fun hnext => if_neg hnext, rfl, rfl, rfl, rfl, rfl, rfl, rfl,
    ⟨rfl, rfl, fun _ => rfl⟩, ⟨rfl, rfl, rfl, rfl⟩⟩
  case index =>
    show (s.i + 1).toNat = s.i.toNat + 1
    bv_omega
  case outlen =>
    have hexact : (s.outlen + 16).toNat = s.outlen.toNat + 16 := by bv_omega
    exact ⟨hexact, hexact.trans_le (by omega)⟩

end Sys2Proof.Machine
end

section
/-! PROOFS. The progress of an operation (R124): what every effect of a step keeps of the blocks in `OB` and of the
outstanding request, and the whole result after the last response (R123). -/

namespace Sys2Proof.Machine

open Sys2Proof

variable {c : Config} {s t : State}

/-- `Progress` says nothing of the registers and records listed here. -/
theorem progress_frame (h : Progress c s) (err : Option AbortCause) (cmderr : Bool) (index idword : Word)
    (ctxReady : Bool) (schedule : List Move) (history : List PortEvent) (replies : List HostReply) :
    Progress c { s with
      err := err, cmderr := cmderr, index := index, idword := idword, ctxReady := ctxReady, schedule := schedule
      history := history, replies := replies } :=
  ⟨h.blocksDone, h.requestBuilt⟩

/-- `Progress` asks nothing of a state without blocks and without a request. -/
theorem progress_noBlocks (hs : s.state ≠ .encrypting) (hp : s.ph = false) : Progress c s :=
  ⟨fun h => absurd h hs, fun h => absurd (hp.symm.trans h) Bool.false_ne_true⟩

/-- A state that is not busy has neither, nor has one with the same `STATE` and `PH`. -/
theorem progress_notBusy (h : Inv c s) (hb : s.busy = false) (hs : t.state = s.state) (hp : t.ph = s.ph) :
    Progress c t := by
  have hstate : s.state ≠ .encrypting := fun he =>
    absurd (hb.symm.trans (State.busy_iff.2 (.inr (.inr he)))) Bool.false_ne_true
  exact progress_noBlocks (hs ▸ hstate) (hp.trans (inv_ph_eq_false h hstate))

/-- The append of the ciphertext of window `i` keeps the blocks below it and is block `i` (R124). -/
theorem blockDone_writeOb {i : Nat} (hbelow : ∀ j < i, BlockDone c s j) {b : Block}
    (hb : b = c.e s.key (padblock c.zeroStop (s.ctByte c) s.length i)) :
    ∀ j < i + 1, BlockDone c (s.writeOb (16 * i) b) j := by
  intro j hj k
  rcases Nat.lt_succ_iff_lt_or_eq.1 hj with hj | rfl
  · rw [State.obByte_writeOb_outside c s _ _ (by omega)]
    exact hbelow j hj k
  · rw [State.obByte_writeOb_inside, hb]
    rfl

/-- With a request outstanding, the primitive's answer is the ciphertext of the window of the block in hand (R109). -/
theorem progress_answer (h : Progress c s) (hp : s.ph = true) :
    c.e s.key s.iblk = c.e s.key (padblock c.zeroStop (s.ctByte c) s.length s.i.toNat) := by
  rw [(h.requestBuilt hp).1]

/-- Below `NBLK` the next index does not wrap (R121). -/
theorem inv_next_index (h : Inv c s) (hs : s.state = .encrypting) : (s.i + 1).toNat = s.i.toNat + 1 := by
  obtain ⟨-, -, hi, -⟩ := h.blockInHand hs
  bv_omega

/-- Every effect of a step keeps the progress of the operation. -/
theorem progress_effect (hinv : Inv Config.hw s) (h : Progress Config.hw s) (e : Effect s t) :
    Progress Config.hw t := by
  cases e with
  | nothing => exact h
  | reply r => exact progress_frame h ..
  | index v _ => exact progress_frame h ..
  | ctx level => exact progress_frame h ..
  | cmdError _ => exact progress_frame h ..
  | getid _ => exact progress_frame h ..
  | len v hb => exact progress_notBusy hinv hb rfl rfl
  | ctWrite a v hb _ => exact progress_notBusy hinv hb rfl rfl
  | accept _ _ => exact progress_noBlocks nofun rfl
  | refuse _ _ => exact progress_noBlocks nofun rfl
  | ready _ hp _ => exact progress_noBlocks nofun hp
  | notReady _ _ _ => exact progress_noBlocks nofun rfl
  | derive _ hp =>
    exact ⟨fun _ j hj => absurd hj (Nat.not_lt_zero j), fun hp' => absurd (hp.symm.trans hp') Bool.false_ne_true⟩
  | build hs _ => exact ⟨fun _ => h.blocksDone hs, fun _ => ⟨rfl, rfl⟩⟩
  | respOk hs hp _ =>
    refine ⟨fun _ j hj => ?_, nofun⟩
    rw [inv_next_index hinv hs] at hj
    exact blockDone_writeOb (h.blocksDone hs) (progress_answer h hp) j hj
  | respFail _ _ => exact progress_noBlocks nofun rfl
  | reset => exact progress_noBlocks nofun rfl

/-- Settles O42: a step is an effect on the state with the move taken out of store, which neither invariant sees. -/
theorem stepKeepsProgress : Obligations.StepKeepsProgress :=
  fun _ _ hinv h hstep => progress_effect (inv_frame hinv ..) (progress_frame h ..) (step_effect hstep)

/-- In `DONE` the host reads the bytes of `OB` below `OUTLEN` (R43). -/
theorem hostRead8_ob_open {a : Nat} (hs : s.state = .done) (ha : a < s.outlen.toNat) (hfit : s.outlen.toNat ≤ c.cap) :
    hostRead8 c s (BitVec.ofNat 18 (0x20000 + a)) = s.obByte c a := by
  simp only [hostRead8, regionOf_ob (ha.trans_le hfit)]
  exact if_pos ⟨hs, ha⟩

/-- Settles O45: the response appends the last block, opens the gate, and all blocks lie behind it. -/
theorem lastResponseDeliversWholeResult : Obligations.LastResponseDeliversWholeResult := by
  intro s hinv h hs hp hlast
  have hkey := hinv.keyDerived (.inl hs)
  have hfit := ceil16_fits (hinv.busyFits (State.busy_iff.2 (.inr (.inr hs))))
  have herr : s.err = none := inv_err_eq_none hinv (by simp [hs])
  have hexec := exec_respOk (State.owed_iff.2 ⟨hs, hp⟩) (inv_block_inBuffer hinv hs)
  have hblocks := blockDone_writeOb (h.blocksDone hs) (progress_answer h hp)
  obtain ⟨hn, -, -, ho⟩ := hinv.blockInHand hs
  have hstate : s.i + 1 = s.nblk := BitVec.eq_of_toNat_eq ((inv_next_index hinv hs).trans hlast)
  have hlen : (s.outlen + 16).toNat = 16 * ceil16 s.len.toNat := by
    have := cap_le Config.hw
    bv_omega
  refine ⟨_, hexec, if_pos hstate, herr, hlen, fun j hj k => ?_⟩
  rw [Nat.add_assoc, hostRead8_ob_open (if_pos hstate) ?below ?fits, ← hkey]
  case below => exact lt_of_lt_of_eq (by omega) hlen.symm
  case fits => exact hlen.trans_le hfit
  exact hblocks j (by omega) k

end Sys2Proof.Machine
end

section
/-! PROOFS. The micro-operations that an operation has left (R127, R173): how many in each state, and that each one
lowers the count. -/

namespace Sys2Proof.Machine

open Sys2Proof

variable {c : Config} {s t : State}

theorem remaining_ctxcheck (hs : s.state = .ctxcheck) : s.remaining = 2 + 2 * ceil16 s.length := by
  simp only [State.remaining, hs]

theorem remaining_derive (hs : s.state = .derive) : s.remaining = 1 + 2 * ceil16 s.length := by
  simp only [State.remaining, hs]

theorem remaining_beforeBuild (hs : s.state = .encrypting) (hp : s.ph = false) :
    s.remaining = 2 * (s.nblk.toNat - s.i.toNat) := by
  simp [State.remaining, hs, hp]

theorem remaining_beforeResponse (hs : s.state = .encrypting) (hp : s.ph = true) :
    s.remaining = 2 * (s.nblk.toNat - s.i.toNat) - 1 := by
  simp [State.remaining, hs, hp]

theorem remaining_notBusy (hb : s.busy = false) : s.remaining = 0 := by
  rcases State.not_busy_iff.1 hb with hs | hs | hs <;> simp only [State.remaining, hs]

/-- While busy the response of the block in hand is still to come. -/
theorem inv_remaining_pos (h : Inv c s) (hb : s.busy = true) : 0 < s.remaining := by
  rcases State.busy_iff.1 hb with hs | hs | hs
  · rw [remaining_ctxcheck hs]; omega
  · rw [remaining_derive hs]; omega
  · obtain ⟨-, -, hi, -⟩ := h.blockInHand hs
    cases hp : s.ph with
    | false => rw [remaining_beforeBuild hs hp]; omega
    | true => rw [remaining_beforeResponse hs hp]; omega

/-- Acceptance leaves `CTXCHK`, `DERIVE` and two micro-operations for each block, and a refusal leaves none (R100,
R101). -/
theorem exec_encrypt_remaining (hb : s.busy = false) (h : exec .encrypt s = .next t) :
    t.remaining ≤ 2 + 2 * ceil16 s.length := by
  by_cases hl : s.length ≤ Config.hw.cap
  · cases (exec_encrypt_accept hb hl).symm.trans h
    exact (remaining_ctxcheck rfl).le
  · cases (exec_encrypt_refuse hb (Nat.not_le.1 hl)).symm.trans h
    exact (remaining_notBusy rfl).trans_le (Nat.zero_le _)

/-- Between two blocks, and after the last, `BUILD` and `RESP` are left for each block to come. -/
theorem remaining_betweenBlocks_le (hs : s.state = .done ∨ s.state = .encrypting) (hp : s.ph = false) :
    s.remaining ≤ 2 * (s.nblk.toNat - s.i.toNat) := by
  rcases hs with hs | hs
  · rw [remaining_notBusy (State.not_busy_iff.2 (.inr (.inl hs)))]
    exact Nat.zero_le _
  · exact (remaining_beforeBuild hs hp).le

/-- `CTXCHK`, `DERIVE` and `BUILD` each lower the count. -/
theorem ctrlStep_remaining (h : Inv Config.hw s) (hb : s.busy = true) (hp : s.ph = false)
    (hstep : ctrlStep s = .next t) : t.remaining < s.remaining := by
  have hpos := inv_remaining_pos h hb
  rcases State.busy_iff.1 hb with hs | hs | hs
  · rw [ctrlStep_ctxcheck hs hp] at hstep
    cases hc : s.ctxReady with
    | true =>
      cases (exec_ctxchk_ready hs hp hc).symm.trans hstep
      rw [remaining_ctxcheck hs, remaining_derive rfl]
      exact Nat.add_lt_add_right Nat.one_lt_two _
    | false =>
      cases (exec_ctxchk_notReady hs hp hc).symm.trans hstep
      rwa [remaining_notBusy rfl]
  · cases ((ctrlStep_derive hs hp).trans (exec_derive hs hp)).symm.trans hstep
    refine lt_of_le_of_lt (remaining_betweenBlocks_le (ite_eq_or_eq ..) hp) ?_
    have hn : (BitVec.ofNat 16 (ceil16 s.length)).toNat = ceil16 s.length := toNat_nblk (h.busyFits hb)
    rw [remaining_derive hs]
    show 2 * ((BitVec.ofNat 16 (ceil16 s.length)).toNat - 0) < _
    omega
  · cases ((ctrlStep_build hs hp).trans (exec_build hs hp (inv_window_inBuffer h hs))).symm.trans hstep
    rw [remaining_beforeBuild hs hp] at hpos ⊢
    exact lt_of_eq_of_lt (remaining_beforeResponse hs rfl) (Nat.sub_lt hpos Nat.one_pos)

/-- Either response lowers the count. -/
theorem primStep_remaining {ok : Bool} (h : Inv Config.hw s) (hstep : primStep ok s = .next t) :
    t.remaining < s.remaining := by
  cases ho : s.owed with
  | false => cases (primStep_notOwed ho ok).symm.trans hstep
  | true =>
    obtain ⟨hs, hp⟩ := State.owed_iff.1 ho
    have hpos := inv_remaining_pos h (State.busy_iff.2 (.inr (.inr hs)))
    rw [primStep_owed ho] at hstep
    cases ok with
    | false =>
      cases (exec_respFail ho).symm.trans hstep
      rwa [remaining_notBusy rfl]
    | true =>
      cases (exec_respOk ho (inv_block_inBuffer h hs)).symm.trans hstep
      refine lt_of_le_of_lt (remaining_betweenBlocks_le (ite_eq_or_eq ..) rfl) ?_
      show 2 * (s.nblk.toNat - (s.i + 1).toNat) < _
      rw [remaining_beforeResponse hs hp] at hpos ⊢
      rw [inv_next_index h hs]
      omega

/-- Settles O46: agent by agent; only the host, the context input and an idle `CTRL` leave the count as it is. -/
theorem remainingStepsDecrease : Obligations.RemainingStepsDecrease := by
  refine ⟨fun s h => ⟨fun hzero => ?idle, remaining_notBusy⟩, fun s t hexec hb => exec_encrypt_remaining hb hexec,
    fun s t h hb hstep hreset => ?step⟩
  case idle =>
    by_contra hb
    exact (inv_remaining_pos h (eq_true_of_ne_false hb)).ne' hzero
  case step =>
    have hpop : Inv Config.hw s.pop := inv_frame h ..
    have hperform : perform s.nextMove s.pop = .next t := hstep
    cases hm : s.nextMove with
    | host x =>
      obtain ⟨b, r, hnext⟩ := hostCannotDisturbOperation s hb (.inl ⟨x, hm⟩)
      cases hnext.symm.trans hstep
      exact .inr ⟨rfl, .inl ⟨x, rfl⟩⟩
    | ctx level =>
      obtain ⟨b, r, hnext⟩ := hostCannotDisturbOperation s hb (.inr ⟨level, hm⟩)
      cases hnext.symm.trans hstep
      exact .inr ⟨rfl, .inr (.inl ⟨level, rfl⟩)⟩
    | reset => exact absurd hm hreset
    | ctrl =>
      rw [hm] at hperform
      cases hp : s.ph with
      | false => exact .inl (ctrlStep_remaining (s := s.pop) hpop hb hp hperform)
      | true =>
        cases (ctrlStep_idle (s := s.pop) (.inr hp)).symm.trans hperform
        exact .inr ⟨rfl, .inr (.inr ⟨rfl, rfl⟩)⟩
    | prim ok =>
      rw [hm] at hperform
      exact .inl (primStep_remaining (s := s.pop) hpop hperform)

end Sys2Proof.Machine
end

section
/-! PROOFS. The operation as a function (R127, R128): what its loop answers, what its result depends on, and the
windows of a success. -/

namespace Sys2Proof.Machine

open Sys2Proof

variable {c d : Config} {key : Block} {ct ct' : Nat → Byte} {L i n : Nat} {ctx : Bool} {fails : Nat → Bool}
  {out : List Byte}

/-- The ciphertext of window `j` (R123). -/
def cipherBlock (c : Config) (key : Block) (ct : Nat → Byte) (L j : Nat) : List Byte :=
  (c.e key (padblock c.zeroStop ct L j)).toList

@[simp] theorem cipherBlock_length (j : Nat) : (cipherBlock c key ct L j).length = 16 := by simp [cipherBlock]

/-- The loop of R127 fails where a request of its blocks does, and else appends the ciphertext of each. -/
theorem encryptBlocks_eq : encryptBlocks c key ct L fails i n out =
    if (List.range' i n).any fails then .aborted .primitiveFailure
    else .done (out ++ (List.range' i n).flatMap (cipherBlock c key ct L)) := by
  induction n generalizing i out with
  | zero => simp [encryptBlocks]
  | succ n ih =>
    rw [encryptBlocks, List.range'_succ, List.any_cons, List.flatMap_cons, ih, List.append_assoc]
    cases fails i <;> rfl

/-- The result of an operation that comes to its blocks. -/
theorem encryptOp_blocks (hL : L ≤ c.cap) : encryptOp c ct L true fails =
    if (List.range (ceil16 L)).any fails then .aborted .primitiveFailure
    else .done ((List.range (ceil16 L)).flatMap (cipherBlock c (deriveKey c) ct L)) := by
  rw [encryptOp, if_neg (Nat.not_lt.2 hL), if_neg (by decide), encryptBlocks_eq, List.nil_append, List.range_eq_range']

theorem encryptOp_notReady (hL : L ≤ c.cap) : encryptOp c ct L false fails = .aborted .platformUnavailable := by
  rw [encryptOp, if_neg (Nat.not_lt.2 hL), if_pos rfl]

theorem encryptOp_tooLong (hL : c.cap < L) : encryptOp c ct L ctx fails = .aborted .lengthRefused := if_pos hL

/-- A success is the ciphertext of the windows, one after another (R127). -/
theorem encryptOp_eq_done (h : encryptOp c ct L ctx fails = .done out) :
    out = (List.range (ceil16 L)).flatMap (cipherBlock c (deriveKey c) ct L) := by
  by_cases hL : L ≤ c.cap
  · cases ctx with
    | false => cases (encryptOp_notReady hL).symm.trans h
    | true =>
      rw [encryptOp_blocks hL] at h
      split at h
      · cases h
      · cases h; rfl
  · cases (encryptOp_tooLong (Nat.not_le.1 hL)).symm.trans h

/-- What the result depends on: `CAP`, the key, the primitive and the padded blocks (R128 items 4 to 8). -/
theorem encryptOp_congr (hcap : d.cap = c.cap) (hkey : deriveKey d = deriveKey c) (he : d.e = c.e)
    (hpad : ∀ j, padblock d.zeroStop ct' L j = padblock c.zeroStop ct L j) :
    encryptOp d ct' L ctx fails = encryptOp c ct L ctx fails := by
  have hblock : cipherBlock d (deriveKey d) ct' L = cipherBlock c (deriveKey c) ct L := by
    funext j
    rw [cipherBlock, cipherBlock, hkey, he, hpad]
  simp only [encryptOp, encryptBlocks_eq, hcap, hblock]

/-- The result depends on the cleartext below its length only (R128 item 7). -/
theorem encryptOp_congr_cleartext (h : ∀ a, a < L → ct' a = ct a) :
    encryptOp c ct' L ctx fails = encryptOp c ct L ctx fails := by
  refine encryptOp_congr rfl rfl rfl fun j => padblock_congr fun k hk => h _ ?_
  rw [avail] at hk
  omega

/-- Window `i` of blocks that are laid one after another is block `i`. -/
theorem flatMap_window {f : Nat → List Byte} (hf : ∀ j, (f j).length = 16) {js : List Nat} (hi : i < js.length) :
    ((js.flatMap f).drop (16 * i)).take 16 = f js[i] := by
  induction js generalizing i with
  | nil => simp at hi
  | cons j js ih =>
    rw [List.flatMap_cons]
    cases i with
    | zero => simp [hf]
    | succ i =>
      have hlen : 16 * (i + 1) = (f j).length + 16 * i := by rw [hf]; omega
      rw [hlen, List.drop_length_add_append]
      exact ih (Nat.lt_of_succ_lt_succ hi)

/-- Window `i` of a success is the ciphertext of window `i` of the cleartext (R128 item 2). -/
theorem encryptOp_window (h : encryptOp c ct L ctx fails = .done out) (hi : i < ceil16 L) :
    (out.drop (16 * i)).take 16 = cipherBlock c (deriveKey c) ct L i := by
  have hi' : i < (List.range (ceil16 L)).length := by rwa [List.length_range]
  rw [encryptOp_eq_done h, flatMap_window cipherBlock_length hi', List.getElem_range]

/-- Settles O52: the result from the loop's, and its windows from the blocks that the loop appends. -/
theorem lawsOfTheOperation : Obligations.LawsOfTheOperation := by
  obtain ⟨-, -, key_congr⟩ := keyIsLowIdentifierBytesTwice
  intro c ct L ctx fails
  refine ⟨fun out h => ⟨?length, fun i => encryptOp_window h⟩, fun out h i j hi hj hpad => ?equalBlocks,
    fun hL hctx => ?notReady, fun hL hctx hfail => ?failure, fun hL hctx hok => ?success,
    fun ct' => encryptOp_congr_cleartext, fun d h₀ h₁ he hz hcap => ?identifier⟩
  case length => simp [encryptOp_eq_done h, Nat.mul_comm]
  case equalBlocks => rw [encryptOp_window h hi, encryptOp_window h hj, cipherBlock, cipherBlock, hpad]
  case notReady => rw [hctx, encryptOp_notReady hL]
  case failure =>
    have hany : (List.range (ceil16 L)).any fails = true := by simpa using hfail
    rw [hctx, encryptOp_blocks hL, if_pos hany]
  case success =>
    have hnone : ¬(List.range (ceil16 L)).any fails = true := by simpa using hok
    exact ⟨_, by rw [hctx, encryptOp_blocks hL, if_neg hnone]⟩
  case identifier =>
    have hcap : d.cap = c.cap := by rw [Config.cap, Config.cap, hcap]
    exact encryptOp_congr hcap (key_congr d c h₀ h₁) he fun j => by rw [hz]

end Sys2Proof.Machine
end

section
/-! PROOFS. A whole `ENCRYPT` on the machine (R127): its micro-operations, and its result, which is that of the operation
as a function and so depends on the cleartext alone (R128). -/

namespace Sys2Proof.Machine.Operation

open Sys2Proof

variable {s : State} {c : Config} {ctx : Bool} {fails : Nat → Bool}

/-- A block takes `BUILD` and `RESP`. -/
theorem blockMoves_countP_isMicro_le (i n : Nat) : (blockMoves fails i n).countP Move.isMicro ≤ 2 * n := by
  induction n generalizing i with
  | zero => rfl
  | succ n ih =>
    have hrest := ih (i + 1)
    rw [blockMoves, List.countP_cons_of_pos rfl, List.countP_cons_of_pos rfl]
    cases fails i with
    | true =>
      rw [if_pos rfl, List.countP_nil]
      omega
    | false =>
      rw [if_neg Bool.false_ne_true]
      omega

/-- An operation takes `CTXCHK`, `DERIVE` and the micro-operations of its blocks, or fewer. -/
theorem operationMoves_countP_isMicro_le (L : Nat) :
    (operationMoves c L ctx fails).countP Move.isMicro ≤ 2 + 2 * ceil16 L := by
  rw [operationMoves]
  split
  · exact Nat.zero_le _
  · rw [List.countP_cons_of_neg Bool.false_ne_true, List.countP_cons_of_pos rfl]
    cases ctx with
    | false =>
      rw [if_neg Bool.false_ne_true, List.countP_nil]
      omega
    | true =>
      have hblocks := blockMoves_countP_isMicro_le (fails := fails) 0 (ceil16 L)
      rw [if_pos rfl, List.countP_cons_of_pos rfl]
      omega

/-- A whole `ENCRYPT` ends the operation on what `CT` and `LEN` hold when it is accepted or refused. -/
theorem run_operationSchedule {noise : Nat → List HostTxn} {rest : List Move} (hb : s.busy = false)
    (hs : s.schedule = operationSchedule Config.hw s.len.toNat ctx fails noise ++ rest) :
    ∃ t, Host.Core.run core (operationSchedule Config.hw s.len.toNat ctx fails noise).length s = .next t ∧
      (ofState s ctx fails).Ended t ∧ t.schedule = rest := by
  have hb' : ({ s with schedule := weave noise 0 (operationMoves Config.hw s.len.toNat ctx fails) ++ rest } :
    State).busy = false := hb
  obtain ⟨t, hcmd, ht, htstore, -⟩ := exec_encrypt_underway hb' ctx fails
  obtain ⟨u, hrun, hended, hustore, -⟩ := ht.run_weave htstore
  have hstep := (step_cons hs).trans ((hostStep_wr32_cmd hb' decodeCmd_encrypt).trans hcmd)
  exact ⟨u, (run_next hstep).trans hrun, hended, hustore⟩

/-- Settles O49: the run ends the operation, and what it ends with is `encryptOp`. -/
theorem operationComputesEncryptOp : Obligations.OperationComputesEncryptOp := by
  intro s ctx fails noise rest hb hs
  obtain ⟨t, hrun, hended, hstore⟩ := run_operationSchedule hb hs
  exact ⟨t, hrun, hstore, hended.notBusy, hended.tagged, hended.flattened, operationMoves_countP_isMicro_le _⟩

/-- Settles O53: both runs end with the result of the same operation, since `encryptOp` looks at the cleartext only. -/
theorem equalCleartextsEncryptEqually : Obligations.EqualCleartextsEncryptEqually := by
  intro s₁ s₂ ctx fails noise₁ noise₂ rest₁ rest₂ hb₁ hb₂ hlen hct hs₁ hs₂
  obtain ⟨t₁, hrun₁, hended₁, -⟩ := run_operationSchedule hb₁ hs₁
  obtain ⟨t₂, hrun₂, hended₂, -⟩ := run_operationSchedule hb₂ hs₂
  have hresult : (ofState s₁ ctx fails).result = (ofState s₂ ctx fails).result := by
    have hlength : s₁.length = s₂.length := congrArg BitVec.toNat hlen
    simp only [result, ofState, ← hlength]
    exact encryptOp_congr_cleartext hct
  refine ⟨t₁, t₂, hrun₁, hrun₂, ?_, ?_⟩
  · rw [hended₁.tagged, hended₂.tagged, hresult]
  · rw [hended₁.flattened, hended₂.flattened, hresult]

end Sys2Proof.Machine.Operation
end

section
/-! PROOFS. The exceptions (R140, R144, R157): who raises an abort, what its entry leaves, and the wait for a response
that does not come. -/

namespace Sys2Proof.Machine

open Sys2Proof

variable {i : Instr} {s t : State}

/-- Who raises an abort in state `s`, for which cause, and the state in which the entry is made (R101, R103, R122). -/
inductive RaisesAbort (s : State) : Instr → AbortCause → State → Prop where
  | encrypt : RaisesAbort s .encrypt .lengthRefused s.clearForEncrypt
  | ctxchk : RaisesAbort s .ctxchk .platformUnavailable (s.record (.ctxSample false))
  | respFail : RaisesAbort s .respFail .primitiveFailure (s.record .primFail)

/-- An instruction that brings the machine to `ABORTED`, by `ENCRYPT` also from `ABORTED`, raises an abort (R140). -/
theorem exec_aborted (h : exec i s = .next t) (ht : t.state = .aborted) (hs : s.state ≠ .aborted ∨ i = .encrypt) :
    ∃ cause u, RaisesAbort s i cause u ∧ t = u.abort cause := by
  cases i with
  | encrypt =>
    cases hb : s.busy with
    | true =>
      cases (exec_encrypt_busy hb).symm.trans h
      cases hb.symm.trans (State.not_busy_iff.2 (.inr (.inr ht)))
    | false =>
      by_cases hl : s.length ≤ Config.hw.cap
      · cases (exec_encrypt_accept hb hl).symm.trans h
        cases ht
      · cases (exec_encrypt_refuse hb (Nat.not_le.1 hl)).symm.trans h
        exact ⟨_, _, .encrypt, rfl⟩
  | ctxchk =>
    by_cases hen : s.state = .ctxcheck ∧ s.ph = false
    · cases hc : s.ctxReady with
      | true => cases (exec_ctxchk_ready hen.1 hen.2 hc).symm.trans h; cases ht
      | false => cases (exec_ctxchk_notReady hen.1 hen.2 hc).symm.trans h; exact ⟨_, _, .ctxchk, rfl⟩
    · cases (exec_ctxchk_disabled hen).symm.trans h
      exact absurd ht (hs.resolve_right nofun)
  | respFail =>
    cases ho : s.owed with
    | false => cases (exec_respFail_notOwed ho).symm.trans h
    | true => cases (exec_respFail ho).symm.trans h; exact ⟨_, _, .respFail, rfl⟩
  | getid =>
    have hs' := hs.resolve_right nofun
    cases hb : s.busy with
    | false => cases (exec_getid hb).symm.trans h; exact absurd ht hs'
    | true => cases (exec_getid_busy hb).symm.trans h; exact absurd ht hs'
  | derive =>
    by_cases hen : s.state = .derive ∧ s.ph = false
    · cases (exec_derive hen.1 hen.2).symm.trans h
      rw [State.alloc_state] at ht
      split at ht <;> cases ht
    · cases (exec_derive_disabled hen).symm.trans h
      exact absurd ht (hs.resolve_right nofun)
  | build =>
    have hs' := hs.resolve_right nofun
    by_cases hen : s.state = .encrypting ∧ s.ph = false
    · cases hr : inBuffer Config.hw (16 * s.i.toNat) (avail s.length s.i.toNat) with
      | false => cases (exec_build_fault hen.1 hen.2 hr).symm.trans h
      | true => cases (exec_build hen.1 hen.2 hr).symm.trans h; exact absurd ht hs'
    · cases (exec_build_disabled hen).symm.trans h
      exact absurd ht hs'
  | respOk =>
    cases ho : s.owed with
    | false => cases (exec_respOk_notOwed ho).symm.trans h
    | true =>
      cases hr : inBuffer Config.hw (16 * s.i.toNat) 16 with
      | false => cases (exec_respOk_fault ho hr).symm.trans h
      | true =>
        cases (exec_respOk ho hr).symm.trans h
        dsimp only at ht
        split at ht <;> cases ht

/-- What an abort leaves (R144): the entry is made in a state that differs from `s` in what the entry overwrites, in
`CMDERR` and in the record of the ports, and the entry itself writes four registers. -/
theorem RaisesAbort.frame {cause : AbortCause} {u : State} (h : RaisesAbort s i cause u) :
    (u.abort cause).idword = s.idword ∧ SameOperands Config.hw s (u.abort cause) ∧ SameOb Config.hw s (u.abort cause) ∧
      SameInternal s (u.abort cause) ∧ SameOutside s (u.abort cause) := by
  cases h <;>
    exact ⟨rfl, ⟨rfl, rfl, fun _ => rfl⟩, fun _ => rfl, ⟨rfl, rfl, rfl, rfl, rfl⟩, ⟨rfl, rfl, rfl, rfl⟩⟩

/-- Settles O25: whichever of the three raises the abort, the four writes are those of the one entry. -/
theorem everyAbortMakesTheSameEntry : Obligations.EveryAbortMakesTheSameEntry := by
  intro i s t h ht hs
  obtain ⟨cause, u, hraise, rfl⟩ := exec_aborted h ht hs
  refine ⟨rfl, rfl, rfl, ?cause, hraise.frame⟩
  case cause =>
    cases hraise with
    | encrypt => exact .inl ⟨rfl, rfl⟩
    | ctxchk => exact .inr (.inl ⟨rfl, rfl⟩)
    | respFail => exact .inr (.inr ⟨rfl, rfl⟩)

/-- `STATUS` while a response is awaited (R157): no error stands there, and `PH` and `BUSY` are set. -/
theorem status_awaitingResponse {c : Config} (h : Inv c s) (hs : s.state = .encrypting) (hp : s.ph = true) :
    s.status = 0x8B := by
  have hm : s.cmderr = false := h.cmderrNotBusy (State.busy_iff.2 (.inr (.inr hs)))
  have he : s.err = none := inv_err_eq_none h (by simp [hs])
  rw [status_of hs hp hm he]
  decide

/-- Settles O47: with nothing in store `CTRL` moves, and while a response is awaited it has no micro-operation. -/
theorem noResponseHangs : Obligations.NoResponseHangs :=
  fun _ k hs hp hstore =>
    ⟨run_fixed ((step_nil hstore).trans (ctrlStep_idle (.inr hp))) k, fun hinv => status_awaitingResponse hinv hs hp⟩

end Sys2Proof.Machine
end

section
/-! PROOFS. The reset event (R160, R161, R162): what a state reads as after it, and that no response is owed there. -/

namespace Sys2Proof.Machine

open Sys2Proof

variable {c : Config} (s : State)

/-- The event leaves no byte of `CT` listed, so each reads as the new draw (R27, V5). -/
@[simp] theorem State.resetEvent_ctByte (a : Nat) : s.resetEvent.ctByte c a = c.ctPowerOn (s.resets + 1) a := by
  simp [State.ctByte, Memory.get, Memory.unlisted]

/-- The event leaves no byte of `OB` listed, so each reads as the new draw (R27, V7). -/
@[simp] theorem State.resetEvent_obByte (a : Nat) : s.resetEvent.obByte c a = c.obPowerOn (s.resets + 1) a := by
  simp [State.obByte, Memory.get, Memory.unlisted]

/-- `STATUS` reads zero after the event (R163). -/
@[simp] theorem State.resetEvent_status : s.resetEvent.status = 0 := by
  rw [status_of s.resetEvent_state s.resetEvent_ph s.resetEvent_cmderr s.resetEvent_err]
  decide

/-- The event cancels the outstanding request (R161). -/
@[simp] theorem State.resetEvent_outstanding : s.resetEvent.outstanding = none := by
  simp [State.outstanding]

/-- With the request cancelled, no response is owed, so a stale one is never taken (R161, V9). -/
@[simp] theorem State.resetEvent_owed : s.resetEvent.owed = false := by
  simp [State.owed]

variable {s} {rest : List Move}

/-- A reset at the head of the store takes one step, whatever the state (R160). -/
theorem step_reset (h : s.schedule = .reset :: rest) : step s = .next s.pop.resetEvent := by
  rw [step_cons h, perform, State.pop, h, List.tail_cons]

/-- A response at the head of the store is refused where none is owed (R120). -/
theorem step_prim_notOwed {ok : Bool} (h : s.schedule = .prim ok :: rest) (ho : s.owed = false) :
    step s = .refused .responseNotOwed :=
  (step_cons h).trans (primStep_notOwed (s := { s with schedule := rest }) ho ok)

/-- Settles O2: the step is the reset event on the state with the move taken out of store, and a response that comes next
finds none owed. -/
theorem resetEventFromAnyState : Obligations.ResetEventFromAnyState := by
  intro s rest hs
  have hstore : s.pop.resetEvent.schedule = rest := congrArg List.tail hs
  exact ⟨s.pop.resetEvent, step_reset hs, rfl, rfl, rfl, rfl, rfl, rfl, rfl, rfl, s.pop.resetEvent_status,
    s.pop.resetEvent_outstanding, rfl, s.pop.resetEvent_ctByte, s.pop.resetEvent_obByte, hstore,
    fun _ _ hrest => step_prim_notOwed (hstore.trans hrest) s.pop.resetEvent_owed⟩

end Sys2Proof.Machine
end
